-- ==== Sys2Proof/Word.lean ====
section
/-! DEFINITION. The value types of the block: every value is an unsigned bit vector of a stated width (00_scope.md R7).
No arithmetic of the block stands here; the shifts and packings are in `Sys2Proof/Machine/`. -/

namespace Sys2Proof

/-- `u8`: one colour channel (00_scope.md R6). -/
abbrev Byte := BitVec 8

/-- `u16`: a coordinate of a port transaction (20_memory.md R43). -/
abbrev Coord := BitVec 16

/-- `u16` in RGB565 layout: an element of CF and PF (10_state.md R16). -/
abbrev Packed := BitVec 16

/-- `u32`: a command word, a read's data, STATUS (30_encoding.md R54, 10_state.md R25). -/
abbrev Word := BitVec 32

/-- One pixel of PB: its three channels in the order red, green, blue (10_state.md R15: channel 0, 1, 2). -/
structure Pixel where
  r : Byte
  g : Byte
  b : Byte
deriving DecidableEq, Repr, Inhabited

end Sys2Proof
end

