-- ==== Sys2Proof/Config.lean ====
section
/-! DEFINITION. What an implementation fixes (00_scope.md R5, R6) and the free values. Each is opaque: nothing proves a value of
it, so a statement that holds here holds whatever it is. -/

namespace Sys2Proof

/-- The index of the panel's last column, `W - 1`, with `1 <= W <= 65536` (00_scope.md R5). Log 1. -/
opaque Config.lastColumn : Fin 65536

/-- The index of the panel's last row, `H - 1`, with `1 <= H <= 65536` (00_scope.md R5). Log 1. -/
opaque Config.lastRow : Fin 65536

/-- W, the panel width in pixels (00_scope.md R5). -/
def Config.width : Nat := Config.lastColumn.val + 1

/-- H, the panel height in pixels (00_scope.md R5). -/
def Config.height : Nat := Config.lastRow.val + 1

/-- `PB_INIT[y][x]`, the power-on content of PB, row first (70_reset_and_hazards.md R144). Log 2. -/
opaque Config.pbInit : Nat → Nat → Pixel

/-- FREE VALUE: what PB holds at row `y`, column `x` after the reset input abandoned a `FILL` or a `PBL` (U10 of
93_implementation_defined.md: any value); the first argument numbers the draw, `State.draws`. Log 9. -/
opaque Config.abandonedPixel : Nat → Nat → Nat → Pixel

end Sys2Proof
end

