-- ==== Sys2Proof/Machine/Raster.lean ====
section
/-! DEFINITION. The stores' shape: an element-addressed raster, a list of rows, row first (00_scope.md R7, 20_memory.md R30, R31).
There is no linear layout: every access names a row and a column. -/

namespace Sys2Proof.Machine

/-- A store of elements of type `α`: its rows from the top, each a list of elements from the left. -/
abbrev Raster (α : Type) := List (List α)

/-- The element at column `x`, row `y`; none where the store has none. -/
def Raster.get? {α : Type} (r : Raster α) (x y : Nat) : Option α := r[y]?.bind fun row => row[x]?

/-- Write the element at column `x`, row `y`. -/
def Raster.set {α : Type} (r : Raster α) (x y : Nat) (v : α) : Raster α := r.modify y fun row => row.set x v

/-- The `h` by `w` raster whose element at row `y`, column `x` is `f y x`. -/
def Raster.ofFn {α : Type} (w h : Nat) (f : Nat → Nat → α) : Raster α :=
  (List.range h).map fun y => (List.range w).map fun x => f y x

/-- The `h` by `w` raster that holds `v` everywhere. -/
def Raster.const {α : Type} (w h : Nat) (v : α) : Raster α := List.replicate h (List.replicate w v)

/-- An elementwise map (40_color_converter.md R74). -/
def Raster.map {α β : Type} (f : α → β) (r : Raster α) : Raster β := List.map (List.map f) r

/-- An elementwise map of two rasters (41_frame_comparator.md R80). -/
def Raster.zip {α β γ : Type} (f : α → β → γ) (a : Raster α) (b : Raster β) : Raster γ := List.zipWith (List.zipWith f) a b

/-- The OR over all elements (10_state.md R23). -/
def Raster.anyTrue (m : Raster Bool) : Bool := m.any fun row => row.any id

end Sys2Proof.Machine
end

