-- ==== Sys2Proof/Syntax.lean ====
section
/-! DEFINITION. What the host can present to the block: the five commands (one constructor per row of opcode_table.json), the
seven typed port transactions and the reset input (00_scope.md R11). -/

namespace Sys2Proof

/-- The five commands of the opcode map (30_encoding.md R59). -/
inductive Instr where
  /-- `CONVERT` (40_color_converter.md R76). -/
  | convert
  /-- `COMPARE` (41_frame_comparator.md R82). -/
  | compare
  /-- `COMMIT` (42_cache_control.md R88). -/
  | commit
  /-- `INVALIDATE` (42_cache_control.md R93). -/
  | invalidate
  /-- `FILL r, g, b` (43_pixel_buffer_fill.md R96). -/
  | fill (r g b : Byte)
deriving DecidableEq, Repr

/-- The port transactions: typed requests without a bit encoding, told apart by kind (30_encoding.md R62, 20_memory.md R43 to R49). -/
inductive Port where
  /-- `PBW x, y, r, g, b`: pixel buffer write (20_memory.md R43). -/
  | pbw (x y : Coord) (r g b : Byte)
  /-- `PBR x, y`: pixel buffer read (20_memory.md R44). -/
  | pbr (x y : Coord)
  /-- `PBL h, w, n, data`: pixel buffer bulk load; the declared shape has at most 17 bits a side and `data` is an array of
  exactly that shape, `data[y][x][c]` (20_memory.md R45, U9 of 93_implementation_defined.md). Log 10. -/
  | pbl (h w n : BitVec 17) (data : Vector (Vector (Vector Byte n.toNat) w.toNat) h.toNat)
  /-- `CFR x, y`: converted frame read (20_memory.md R46). -/
  | cfr (x y : Coord)
  /-- `PFR x, y`: previous frame cache read (20_memory.md R47). -/
  | pfr (x y : Coord)
  /-- `DMR x, y`: dirty mask read (20_memory.md R48). -/
  | dmr (x y : Coord)
  /-- `STR`: status read (20_memory.md R49). -/
  | str
deriving DecidableEq, Repr

/-- An operation, the unit of atomic behaviour: one command word or one port transaction (00_scope.md R10 and glossary). -/
inductive Operation where
  | command (word : Word)
  | port (p : Port)
deriving DecidableEq, Repr

/-- What the host does at the block's interfaces (00_scope.md R11, 70_reset_and_hazards.md R142). -/
inductive Request where
  /-- An operation is presented. -/
  | operation (op : Operation)
  /-- `rst` is asserted and released between operations. -/
  | rst
  /-- `rst` is asserted while `op` is in progress, and released: `op` is abandoned (R142). -/
  | rstDuring (op : Operation)
deriving DecidableEq, Repr

end Sys2Proof
end

