-- ==== Sys2Proof/Machine/State.lean ====
section
/-! DEFINITION. The state of the block as plain data (10_state.md), the reasons a step can stop, and the state after reset. -/

namespace Sys2Proof.Machine

/-- The five error causes (60_exceptions.md R125); the sixth value of ERR, 0, is the absence of a cause (`State.err = none`). -/
inductive Cause where
  /-- 1 `E_ILLEGAL`: the word decodes to no command (R126). -/
  | illegal
  /-- 2 `E_SEQ`: `COMPARE` or `COMMIT` with `CFV = 0` (R127). -/
  | seq
  /-- 3 `E_RANGE`: a coordinate outside the panel (R128). -/
  | range
  /-- 4 `E_SHAPE`: `PBL` with a declared shape other than `(H, W, 3)` (R129). -/
  | shape
  /-- 5 `E_INVALID`: a read of a store that holds no value (R130). -/
  | invalid
deriving DecidableEq, Repr

/-- The block's answer to an operation (00_scope.md R8, R11). -/
inductive Response where
  /-- `OK`. -/
  | ok
  /-- `DATA(v)`; the 24-bit word of `PBR` is zero-extended (log 8). -/
  | data (v : Word)
  /-- `ERR(code)`. -/
  | err (k : Cause)
deriving DecidableEq, Repr

/-- Why the MODEL stops. The spec's own errors are none of these: they are responses, and the block goes on (60_exceptions.md R133). -/
inductive Fault where
  /-- Raised by `PBR`, `CFR`, `PFR`, `DMR` when the store has no element at a coordinate inside the panel. No state that meets
  `State.Inv` has such a store, so no run reaches it. Safe: the model stops where it would have to invent a value. Log 7. -/
  | storeShape
deriving DecidableEq, Repr

/-- Why the model gives an instruction no meaning. -/
inductive Refusal where
  /-- Raised only by an arm of `exec` for an instruction that has no meaning yet; no arm is of this kind. Safe. -/
  | notModelled (mnemonic : String)
deriving DecidableEq, Repr

/-- The block's state between two operations, with the parameters of the instance and the interface to the host. CFV, PFV and DMV
have their one home in the presence of `cf`, `pf` and `dm` (20_memory.md R42; log 5). -/
structure State where
  /-- W, a parameter, never changed (00_scope.md R5; log 1). -/
  w : Nat
  /-- H, a parameter, never changed (00_scope.md R5; log 1). -/
  h : Nat
  /-- PB, the Pixel Buffer (10_state.md R15). -/
  pb : Raster Pixel
  /-- CF, the Converted Frame, while `CFV = 1` (10_state.md R16, R20). -/
  cf : Option (Raster Packed)
  /-- PF, the Previous Frame Cache, while `PFV = 1` (10_state.md R17, R19). -/
  pf : Option (Raster Packed)
  /-- DM, the Dirty Mask, while `DMV = 1` (10_state.md R18, R21). -/
  dm : Option (Raster Bool)
  /-- FULL (10_state.md R22). -/
  full : Bool
  /-- ANY (10_state.md R23). -/
  any : Bool
  /-- ERR: the first error since reset (10_state.md R26). -/
  err : Option Cause
  /-- The host's sequence, in the order of acceptance (20_memory.md R51, 10_state.md R14; log 3). -/
  pending : List Request
  /-- The response to the latest operation; none after reset (00_scope.md R11; log 4). -/
  response : Option Response
  /-- THE MODEL'S OWN: how many free values have been taken (log 9). -/
  draws : Nat
deriving DecidableEq, Repr

/-- The state after power-on and reset (70_reset_and_hazards.md R143 to R145): PB holds `PB_INIT`, CF, PF and DM hold no value, the
flags and ERR are 0. The host has presented nothing yet. -/
def State.reset : State where
  w := Config.width
  h := Config.height
  pb := Raster.ofFn Config.width Config.height Config.pbInit
  cf := none
  pf := none
  dm := none
  full := false
  any := false
  err := none
  pending := []
  response := none
  draws := 0

end Sys2Proof.Machine
end

