-- ==== Sys2Proof/Machine/Flags.lean ====
section
/-! DEFINITION. The flags, ERR and STATUS (10_state.md, sections 3 and 4). -/

namespace Sys2Proof.Machine

/-- CFV, converted frame produced (10_state.md R20). -/
def State.cfv (s : State) : Bool := s.cf.isSome

/-- PFV, cache present (10_state.md R19). -/
def State.pfv (s : State) : Bool := s.pf.isSome

/-- DMV, mask valid (10_state.md R21). -/
def State.dmv (s : State) : Bool := s.dm.isSome

/-- The code of a cause (60_exceptions.md R125). -/
def Cause.code : Cause → BitVec 4
  | .illegal => 1
  | .seq => 2
  | .range => 3
  | .shape => 4
  | .invalid => 5

/-- The field ERR: the code of the first error, or 0 (10_state.md R26). -/
def State.errCode (s : State) : BitVec 4 :=
  match s.err with
  | none => 0
  | some k => k.code

/-- STATUS: bit 0 CFV, 1 PFV, 2 DMV, 3 FULL, 4 ANY, 7:5 zero, 11:8 ERR, 31:12 zero (10_state.md R25). -/
def State.status (s : State) : Word :=
  (0#20 ++ s.errCode ++ 0#3 ++ BitVec.ofBool s.any ++ BitVec.ofBool s.full ++ BitVec.ofBool s.dmv ++ BitVec.ofBool s.pfv ++
    BitVec.ofBool s.cfv : BitVec 32)

/-- `DMV <- 0; FULL <- 0; ANY <- 0`: DM then holds no value (10_state.md R21 to R23). -/
def State.dropMask (s : State) : State := { s with dm := none, full := false, any := false }

/-- `DM <- m; DMV <- 1; FULL <- full; ANY <- any` (41_frame_comparator.md R82). -/
def State.setMask (s : State) (m : Raster Bool) (full any : Bool) : State := { s with dm := some m, full := full, any := any }

end Sys2Proof.Machine
end

