-- ==== Sys2Proof/Machine/Operands.lean ====
section
/-! DEFINITION. The operands of port transactions and the data words of their responses (20_memory.md). -/

namespace Sys2Proof.Machine

/-- `x >= W or y >= H`: the coordinate is outside the panel (20_memory.md R43). -/
def State.outside (s : State) (x y : Coord) : Bool := decide (s.w ≤ x.toNat) || decide (s.h ≤ y.toNat)

/-- The 24-bit word of a pixel: red in bits 23:16, green in bits 15:8, blue in bits 7:0 (20_memory.md R35). -/
def pixelWord (p : Pixel) : BitVec 24 := p.r ++ p.g ++ p.b

/-- The pixel a 24-bit word carries (20_memory.md R35). -/
def pixelOfWord (v : BitVec 24) : Pixel := ⟨v.extractLsb' 16 8, v.extractLsb' 8 8, v.extractLsb' 0 8⟩

/-- The data of `PBR`: the pixel's word with zero high bits (20_memory.md R44; log 8). -/
def pixelData (p : Pixel) : Word := (pixelWord p).setWidth 32

/-- The data of `CFR` and `PFR`: the value in bits 15:0, bits 31:16 zero (20_memory.md R46, R47). -/
def packedData (v : Packed) : Word := v.setWidth 32

/-- The data of `DMR`: 0 or 1 (20_memory.md R48). -/
def bitData (v : Bool) : Word := (BitVec.ofBool v).setWidth 32

/-- The pixel of three channel elements, in the order red, green, blue (20_memory.md R45). -/
def pixelOfChannels {n : Nat} (hn : n = 3) (v : Vector Byte n) : Pixel := ⟨v[0], v[1], v[2]⟩

/-- The raster that a bulk load's data gives: `PB[y][x][c] <- data[y][x][c]` (20_memory.md R45). -/
def rasterOfData {h w n : Nat} (hn : n = 3) (data : Vector (Vector (Vector Byte n) w) h) : Raster Pixel :=
  data.toList.map fun row => row.toList.map (pixelOfChannels hn)

end Sys2Proof.Machine
end

