-- ==== Sys2Proof/Machine/Ops.lean ====
section
/-! DEFINITION. How an operation ends: the named operations every meaning is made of (00_scope.md R8, 60_exceptions.md R133). -/

namespace Sys2Proof.Machine

/-- What every meaning answers. -/
abbrev Result := Host.Outcome State Fault Refusal

/-- `PB <- pb` (20_memory.md R45, 43_pixel_buffer_fill.md R96). -/
def State.setBuffer (s : State) (pb : Raster Pixel) : State := { s with pb := pb }

/-- `CF <- c; CFV <- 1` (40_color_converter.md R76). -/
def State.setFrame (s : State) (c : Raster Packed) : State := { s with cf := some c }

/-- `PF <- p; PFV <- 1`, or with none `PFV <- 0` (42_cache_control.md R88, R93). -/
def State.setCache (s : State) (p : Option (Raster Packed)) : State := { s with pf := p }

/-- What is left of the host's sequence when a request is taken (20_memory.md R50). -/
def State.setPending (s : State) (rest : List Request) : State := { s with pending := rest }

/-- The response reaches the host (00_scope.md R8). -/
def State.respond (s : State) (r : Response) : State := { s with response := some r }

/-- `respond OK`. -/
def complete (s : State) : Result := .next (s.respond .ok)

/-- `respond DATA(v)`. -/
def answer (v : Word) (s : State) : Result := .next (s.respond (.data v))

/-- ERR keeps the first error: `if ERR == 0: ERR <- k` (60_exceptions.md R133, R136). -/
def State.recordError (s : State) (k : Cause) : State :=
  match s.err with
  | none => { s with err := some k }
  | some _ => s

/-- `raise k`: the one way an operation is refused ("trap entry", 60_exceptions.md R133): it responds `ERR(k)`, ERR is written if it
was 0, and nothing else changes. There is no saved state and no return (R135): the next operation is executed normally. -/
def raise (k : Cause) (s : State) : Result := .next ((s.recordError k).respond (.err k))

/-- Respond with one element of a store (20_memory.md R44, R46 to R48). -/
def readElement {α : Type} (store : Raster α) (x y : Coord) (data : α → Word) (s : State) : Result :=
  match store.get? x.toNat y.toNat with
  | some v => answer (data v) s
  | none => .fault .storeShape

/-- Read a store that may hold no value: `E_RANGE`, then `E_INVALID`, then the element (20_memory.md R42, 60_exceptions.md R132). -/
def readOptional {α : Type} (store : Option (Raster α)) (x y : Coord) (data : α → Word) (s : State) : Result :=
  if s.outside x y then raise .range s
  else
    match store with
    | none => raise .invalid s
    | some r => readElement r x y data s

/-- One operation after another (20_memory.md R50): the second starts where the first ended. -/
def andThen (o : Result) (f : State → Result) : Result :=
  match o with
  | .next s => f s
  | .fault r => .fault r
  | .refused r => .refused r

end Sys2Proof.Machine
end

