-- ==== Sys2Proof/Machine/CacheControl.lean ====
section
/-! DEFINITION. Cache control: `COMMIT` and `INVALIDATE` (42_cache_control.md). -/

namespace Sys2Proof.Machine

/-- `COMMIT` (42_cache_control.md R88): PF becomes a copy of CF. -/
def execCommit (s : State) : Result :=
  match s.cf with
  | none => raise .seq s
  | some cur => complete (s.dropMask.setCache (some cur))

/-- `INVALIDATE` (42_cache_control.md R93): PF becomes absent. -/
def execInvalidate (s : State) : Result := complete (s.dropMask.setCache none)

end Sys2Proof.Machine
end

