-- ==== Sys2Proof/Machine/Compare.lean ====
section
/-! DEFINITION. The frame comparator: `diff` and `COMPARE` (41_frame_comparator.md). -/

namespace Sys2Proof.Machine

/-- `diff(cur, prev) = (cur != prev)` (41_frame_comparator.md R78). -/
def diff (cur prev : Packed) : Bool := cur != prev

/-- The mask of two frames, elementwise (41_frame_comparator.md R80). -/
def diffFrame (cur prev : Raster Packed) : Raster Bool := Raster.zip diff cur prev

/-- `COMPARE` (41_frame_comparator.md R82). -/
def execCompare (s : State) : Result :=
  match s.cf with
  | none => raise .seq s
  | some cur =>
    match s.pf with
    | some prev => complete (s.setMask (diffFrame cur prev) false (diffFrame cur prev).anyTrue)
    | none => complete (s.setMask (Raster.const s.w s.h true) true true)

end Sys2Proof.Machine
end

