-- ==== Sys2Proof/Machine/Convert.lean ====
section
/-! DEFINITION. The colour converter: `pack565` and `CONVERT` (40_color_converter.md). -/

namespace Sys2Proof.Machine

/-- `red5 = red8 >> 3` (40_color_converter.md R68). -/
def red5 (r : Byte) : BitVec 5 := (r >>> 3).setWidth 5

/-- `green6 = green8 >> 2` (40_color_converter.md R69). -/
def green6 (g : Byte) : BitVec 6 := (g >>> 2).setWidth 6

/-- `blue5 = blue8 >> 3` (40_color_converter.md R70). -/
def blue5 (b : Byte) : BitVec 5 := (b >>> 3).setWidth 5

/-- `packed = (red5 << 11) | (green6 << 5) | blue5` (40_color_converter.md R71, R72). -/
def pack565 (p : Pixel) : Packed :=
  ((red5 p.r).setWidth 16 <<< 11) ||| ((green6 p.g).setWidth 16 <<< 5) ||| (blue5 p.b).setWidth 16

/-- The whole buffer converted, elementwise (40_color_converter.md R74). -/
def convertFrame (pb : Raster Pixel) : Raster Packed := pb.map pack565

/-- `CONVERT` (40_color_converter.md R76). -/
def execConvert (s : State) : Result := complete (s.dropMask.setFrame (convertFrame s.pb))

end Sys2Proof.Machine
end

