-- ==== Sys2Proof/Machine/Fill.lean ====
section
/-! DEFINITION. Pixel buffer fill: `FILL` (43_pixel_buffer_fill.md). -/

namespace Sys2Proof.Machine

/-- `FILL r, g, b` (43_pixel_buffer_fill.md R96). -/
def execFill (r g b : Byte) (s : State) : Result := complete (s.setBuffer (Raster.const s.w s.h ⟨r, g, b⟩))

end Sys2Proof.Machine
end

