-- ==== Sys2Proof/Machine/Dispatch.lean ====
section
/-! DEFINITION. The meaning of each command, by its constructor. -/

namespace Sys2Proof.Machine

def exec (i : Instr) (s : State) : Host.Outcome State Fault Refusal :=
  match i with
  | .convert => Sys2Proof.Machine.execConvert s
  | .compare => Sys2Proof.Machine.execCompare s
  | .commit => Sys2Proof.Machine.execCommit s
  | .invalidate => Sys2Proof.Machine.execInvalidate s
  | .fill r g b => Sys2Proof.Machine.execFill r g b s

end Sys2Proof.Machine
end

