-- ==== Sys2Proof/Machine/Ports.lean ====
section
/-! DEFINITION. The port transactions, the block's loads and stores (20_memory.md, section 6). -/

namespace Sys2Proof.Machine

/-- `PBW x, y, r, g, b` (20_memory.md R43). -/
def execPbw (x y : Coord) (r g b : Byte) (s : State) : Result :=
  if s.outside x y then raise .range s else complete (s.setBuffer (s.pb.set x.toNat y.toNat ⟨r, g, b⟩))

/-- `PBR x, y` (20_memory.md R44). -/
def execPbr (x y : Coord) (s : State) : Result :=
  if s.outside x y then raise .range s else readElement s.pb x y pixelData s

/-- `PBL h, w, n, data` (20_memory.md R45). -/
def execPbl (h w n : BitVec 17) (data : Vector (Vector (Vector Byte n.toNat) w.toNat) h.toNat) (s : State) : Result :=
  if hs : h.toNat = s.h ∧ w.toNat = s.w ∧ n.toNat = 3 then complete (s.setBuffer (rasterOfData hs.2.2 data)) else raise .shape s

/-- `CFR x, y` (20_memory.md R46). -/
def execCfr (x y : Coord) (s : State) : Result := readOptional s.cf x y packedData s

/-- `PFR x, y` (20_memory.md R47). -/
def execPfr (x y : Coord) (s : State) : Result := readOptional s.pf x y packedData s

/-- `DMR x, y` (20_memory.md R48). -/
def execDmr (x y : Coord) (s : State) : Result := readOptional s.dm x y bitData s

/-- `STR` (20_memory.md R49). -/
def execStr (s : State) : Result := answer s.status s

/-- The meaning of a port transaction, by its kind (30_encoding.md R62). -/
def execPort (p : Port) (s : State) : Result :=
  match p with
  | .pbw x y r g b => execPbw x y r g b s
  | .pbr x y => execPbr x y s
  | .pbl h w n data => execPbl h w n data s
  | .cfr x y => execCfr x y s
  | .pfr x y => execPfr x y s
  | .dmr x y => execDmr x y s
  | .str => execStr s

end Sys2Proof.Machine
end

