-- ==== Sys2Proof/WellFormed.lean ====
section
/-! DEFINITION. What is well formed. The operands of `Instr` and `Port` are bit vectors of exactly the widths of the spec, so no
ill-formed instruction can be written down; what can be ill formed is a panel's size and a store's shape. -/

namespace Sys2Proof

/-- Every instruction is well formed: `FILL` takes every value 0 to 255 of each channel, the others take no operand
(30_encoding.md R57, R58). -/
def Instr.wellFormed : Instr → Bool
  | .convert => true
  | .compare => true
  | .commit => true
  | .invalidate => true
  | .fill _ _ _ => true

/-- A legal panel size: `1 <= W <= 65536`, `1 <= H <= 65536` (00_scope.md R5). -/
def Machine.panelWf (w h : Nat) : Bool := decide (1 ≤ w) && decide (w ≤ 65536) && decide (1 ≤ h) && decide (h ≤ 65536)

/-- The one form a store has: `h` rows of `w` elements (20_memory.md R30). -/
def Machine.Raster.wf {α : Type} (w h : Nat) (r : Machine.Raster α) : Bool :=
  r.length == h && r.all fun row => row.length == w

end Sys2Proof
end

