-- ==== Sys2Proof/Decode.lean ====
section
/-! DEFINITION. The command word: its fields, the opcode map, the decoder, total on 32-bit words, and the encoder
(30_encoding.md). -/

namespace Sys2Proof

/-- `op`, bits 31:24 (30_encoding.md R55). -/
def opField (w : Word) : Byte := w.extractLsb' 24 8

/-- `a`, bits 23:16: red of `FILL` (30_encoding.md R55, R57). -/
def fieldA (w : Word) : Byte := w.extractLsb' 16 8

/-- `b`, bits 15:8: green of `FILL` (30_encoding.md R55, R57). -/
def fieldB (w : Word) : Byte := w.extractLsb' 8 8

/-- `c`, bits 7:0: blue of `FILL` (30_encoding.md R55, R57). -/
def fieldC (w : Word) : Byte := w.extractLsb' 0 8

/-- `word[23:0]` (30_encoding.md R58). -/
def immField (w : Word) : BitVec 24 := w.extractLsb' 0 24

/-- `word = {op, a, b, c}` (30_encoding.md R55). -/
def commandWord (op a b c : Byte) : Word := op ++ a ++ b ++ c

/-- Why a word is illegal: the two classes of 30_encoding.md R60. -/
inductive Illegal where
  /-- The opcode is 0x00 or 0x06 to 0xFF. -/
  | noSuchOpcode
  /-- The opcode is 0x01 to 0x04 and `word[23:0]` is not zero. -/
  | operandNotZero
deriving DecidableEq, Repr

/-- A command that takes no operand: its word's bits 23:0 must be zero (30_encoding.md R58). -/
def withoutOperand (w : Word) (i : Instr) : Except Illegal Instr :=
  if immField w = 0 then .ok i else .error .operandNotZero

/-- The decoder of 30_encoding.md R67. -/
def decode (w : Word) : Except Illegal Instr :=
  if opField w = 0x01 then withoutOperand w .convert
  else if opField w = 0x02 then withoutOperand w .compare
  else if opField w = 0x03 then withoutOperand w .commit
  else if opField w = 0x04 then withoutOperand w .invalidate
  else if opField w = 0x05 then .ok (.fill (fieldA w) (fieldB w) (fieldC w))
  else .error .noSuchOpcode

/-- The encoder, the table of 30_encoding.md R63. -/
def encode : Instr → Word
  | .convert => commandWord 0x01 0 0 0
  | .compare => commandWord 0x02 0 0 0
  | .commit => commandWord 0x03 0 0 0
  | .invalidate => commandWord 0x04 0 0 0
  | .fill r g b => commandWord 0x05 r g b

/-- One legal row of the opcode map (30_encoding.md R59). -/
structure OpcodeRow where
  mnemonic : String
  pattern : Word
  mask : Word
deriving DecidableEq, Repr

/-- A word selects a row when `(w & mask) == match` (30_encoding.md R59). -/
def OpcodeRow.selects (row : OpcodeRow) (w : Word) : Bool := w &&& row.mask == row.pattern

/-- The five legal rows of the opcode map (30_encoding.md R59). -/
def opcodeMap : List OpcodeRow :=
  [⟨"CONVERT", 0x01000000, 0xFFFFFFFF⟩, ⟨"COMPARE", 0x02000000, 0xFFFFFFFF⟩, ⟨"COMMIT", 0x03000000, 0xFFFFFFFF⟩,
    ⟨"INVALIDATE", 0x04000000, 0xFFFFFFFF⟩, ⟨"FILL", 0x05000000, 0xFF000000⟩]

/-- The row's name of an instruction (30_encoding.md R59). -/
def Instr.mnemonic : Instr → String
  | .convert => "CONVERT"
  | .compare => "COMPARE"
  | .commit => "COMMIT"
  | .invalidate => "INVALIDATE"
  | .fill _ _ _ => "FILL"

/-- The command word of `nbits` bits of the opcode table whose bits are `w`; bits above `nbits` are zero. -/
def tableWord (nbits w : Nat) : Word := BitVec.ofNat 32 (w % 2 ^ nbits)

/-- The instruction read from a table word: a command has 32 bits, no more (30_encoding.md R54, R56). Log 12. -/
def decodeTableWord (nbits w : Nat) : Option Instr :=
  if nbits ≤ 32 then (decode (tableWord nbits w)).toOption else none

end Sys2Proof
end

