-- ==== Sys2Proof/Machine/ResetInput.lean ====
section
/-! DEFINITION. The reset input `rst` (70_reset_and_hazards.md, section 1). -/

namespace Sys2Proof.Machine

/-- `rst` between operations: flags and ERR 0, CF, PF and DM hold no value, PB is not altered; there is no response
(70_reset_and_hazards.md R142 to R145). -/
def State.applyRst (s : State) : State := { s.dropMask with cf := none, pf := none, err := none, response := none }

/-- Whether an abandoned operation can leave PB partly written: a `FILL` or a `PBL`, no other (70_reset_and_hazards.md R142, U10). -/
def fillsBuffer : Operation → Bool
  | .command w =>
    match decode w with
    | .ok (.fill _ _ _) => true
    | .ok .convert => false
    | .ok .compare => false
    | .ok .commit => false
    | .ok .invalidate => false
    | .error _ => false
  | .port (.pbl _ _ _ _) => true
  | .port (.pbw _ _ _ _ _) => false
  | .port (.pbr _ _) => false
  | .port (.cfr _ _) => false
  | .port (.pfr _ _) => false
  | .port (.dmr _ _) => false
  | .port .str => false

/-- PB at any value: the next free raster (U10 of 93_implementation_defined.md: "treat PB then as any value"; log 9). -/
def State.freePb (s : State) : State :=
  { s with pb := Raster.ofFn s.w s.h (Config.abandonedPixel s.draws), draws := s.draws + 1 }

/-- `rst` while `op` is in progress: `op` is abandoned without response and the state is the reset state; PB is free if `op` was a
`FILL` or a `PBL`, unaltered otherwise (70_reset_and_hazards.md R142). -/
def State.abandon (s : State) (op : Operation) : State := if fillsBuffer op then s.freePb.applyRst else s.applyRst

end Sys2Proof.Machine
end

