-- ==== Sys2Proof/Machine/Accept.lean ====
section
/-! DEFINITION. How the block accepts what the host presents, one at a time (20_memory.md R50). -/

namespace Sys2Proof.Machine

/-- A command word: decode, then the command; an illegal word is refused with `E_ILLEGAL` before any check of the state
(30_encoding.md R60, 60_exceptions.md R126, R132). -/
def execCommand (w : Word) (s : State) : Result :=
  match decode w with
  | .ok i => exec i s
  | .error _ => raise .illegal s

/-- One operation (00_scope.md R10). -/
def execOperation (op : Operation) (s : State) : Result :=
  match op with
  | .command w => execCommand w s
  | .port p => execPort p s

/-- What one request of the host does (00_scope.md R11, 70_reset_and_hazards.md R142). -/
def accept (r : Request) (s : State) : Result :=
  match r with
  | .operation op => execOperation op s
  | .rst => .next s.applyRst
  | .rstDuring op => .next (s.abandon op)

/-- The block takes the next request of the host's sequence; with none it waits, unchanged (10_state.md R14,
70_reset_and_hazards.md R159; log 3). -/
def acceptNext (s : State) : Result :=
  match s.pending with
  | [] => .next s
  | r :: rest => accept r (s.setPending rest)

/-- The host presents a request next, before what it had in mind already (log 3). -/
def State.present (s : State) (r : Request) : State := { s with pending := r :: s.pending }

end Sys2Proof.Machine
end

