-- ==== Sys2Proof/Machine/Step.lean ====
section
/-! DEFINITION. One step: one request of the host, executed whole (00_scope.md R10). -/

namespace Sys2Proof.Machine

def step (s : State) : Host.Outcome State Fault Refusal := acceptNext s

/-- The command word is presented as the next operation: the block fetches nothing, the host presents (10_state.md R14; log 3). -/
def State.withFetchWord (s : State) (nbits w : Nat) : State := s.present (.operation (.command (tableWord nbits w)))

end Sys2Proof.Machine
end

