-- ==== Sys2Proof/Machine/Downstream.lean ====
section
/-! DEFINITION. HOST SOFTWARE, OUTSIDE THE BLOCK (45_downstream_contract.md): rectangles, banding, the windowed write, its transport
calls and the update as the block sees it, as pure functions. `step` calls none of them and they add no state to the block (R100,
00_scope.md R4). The merge distance `d` and the chunk size `c` are the host's parameters and so arguments (R103, R115). The host's
procedure itself, with every operation it issues and every transport call, is in `Sys2Proof/Machine/HostUpdate.lean`. -/

namespace Sys2Proof.Machine

/-- A dirty rectangle `(x1, y1, x2, y2)`, all bounds inclusive (45_downstream_contract.md R101). -/
structure Rect where
  x1 : Nat
  y1 : Nat
  x2 : Nat
  y2 : Nat
deriving DecidableEq, Repr

/-- The pixel `(x, y)` lies in the rectangle (45_downstream_contract.md R101). -/
def Rect.contains (q : Rect) (x y : Nat) : Bool :=
  decide (q.x1 ≤ x) && decide (x ≤ q.x2) && decide (q.y1 ≤ y) && decide (y ≤ q.y2)

/-- The rectangle is not empty and lies on the panel: `x1 <= x2 < W`, `y1 <= y2 < H` (45_downstream_contract.md R101). -/
def Rect.onPanel (w h : Nat) (q : Rect) : Bool :=
  decide (q.x1 ≤ q.x2) && decide (q.x2 < w) && decide (q.y1 ≤ q.y2) && decide (q.y2 < h)

/-- Some rectangle of the list covers the pixel. -/
def covered (rs : List Rect) (x y : Nat) : Bool := rs.any fun q => q.contains x y

/-- The scan of the banding rule, with the running band `[top, bot]`; the previous contributing index is `bot`
(45_downstream_contract.md R107). -/
def bandsFrom (d top bot : Nat) : List Nat → List (Nat × Nat)
  | [] => [(top, bot)]
  | r :: rest => if r < bot + d then bandsFrom d top r rest else (top, bot) :: bandsFrom d r r rest

/-- `bands(S, d)` of a set given in ascending order (45_downstream_contract.md R107). -/
def bands (d : Nat) : List Nat → List (Nat × Nat)
  | [] => []
  | s :: rest => bandsFrom d s s rest

/-- `Rows`: the rows with a dirty pixel, ascending (45_downstream_contract.md R108). -/
def dirtyRows (w h : Nat) (m : Raster Bool) : List Nat :=
  (List.range h).filter fun y => (List.range w).any fun x => m.get? x y == some true

/-- `Cols(top, bot)`: the columns with a dirty pixel in rows `top` to `bot`, ascending (45_downstream_contract.md R109). -/
def dirtyCols (w : Nat) (m : Raster Bool) (top bot : Nat) : List Nat :=
  (List.range w).filter fun x => (List.range' top (bot + 1 - top)).any fun y => m.get? x y == some true

/-- `rects(DM, d)` (45_downstream_contract.md R109). -/
def rects (w h d : Nat) (m : Raster Bool) : List Rect :=
  (bands d (dirtyRows w h m)).flatMap fun rb =>
    (bands d (dirtyCols w m rb.1 rb.2)).map fun cb => ⟨cb.1, rb.1, cb.2, rb.2⟩

/-- The rectangle list the host forms from FULL, ANY and DM (45_downstream_contract.md R104 to R106, R108). A mask without value
gives none: the host reads it only after `COMPARE`. -/
def rectList (d : Nat) (s : State) : List Rect :=
  if s.full then [⟨0, 0, s.w - 1, s.h - 1⟩]
  else if s.any then
    match s.dm with
    | some m => rects s.w s.h d m
    | none => []
  else []

/-- The commands of a windowed write. The bytes of their command phases are not in the spec's source (45_downstream_contract.md R113,
R124): the model names them by kind. Log 13. -/
inductive WindowKind where
  | setColumnWindow
  | setRowWindow
  | writePixels
deriving DecidableEq, Repr

/-- One command to the panel: its kind, sent in the command phase, and its data bytes (45_downstream_contract.md R115). -/
structure WindowCommand where
  kind : WindowKind
  data : List Byte
deriving DecidableEq, Repr

/-- A 16-bit value, most significant byte first (20_memory.md R36, 45_downstream_contract.md R113). -/
def bigEndian (v : BitVec 16) : List Byte := [v.extractLsb' 8 8, v.extractLsb' 0 8]

/-- The four data bytes of a window command (45_downstream_contract.md R113). -/
def windowBytes (first last : Nat) : List Byte := bigEndian (BitVec.ofNat 16 first) ++ bigEndian (BitVec.ofNat 16 last)

/-- The pixel payload of a rectangle, `x` in the outer loop and `y` in the inner one, each pixel big-endian
(45_downstream_contract.md R114, the literal reading; log 13). -/
def payload (cf : Raster Packed) (q : Rect) : List Byte :=
  (List.range' q.x1 (q.x2 + 1 - q.x1)).flatMap fun x =>
    (List.range' q.y1 (q.y2 + 1 - q.y1)).flatMap fun y => ((cf.get? x y).map bigEndian).getD []

/-- The three commands of a windowed write of given pixel data, in their fixed order (45_downstream_contract.md R113, R116). -/
def windowCommands (q : Rect) (pixels : List Byte) : List WindowCommand :=
  [⟨.setColumnWindow, windowBytes q.x1 q.x2⟩, ⟨.setRowWindow, windowBytes q.y1 q.y2⟩, ⟨.writePixels, pixels⟩]

/-- The windowed write of a rectangle of a converted frame (45_downstream_contract.md R113). -/
def windowWrite (cf : Raster Packed) (q : Rect) : List WindowCommand := windowCommands q (payload cf q)

/-- Pieces of at most `c + 1` bytes, in order; `fuel` bounds their number. -/
def piecesOf (c : Nat) : Nat → List Byte → List (List Byte)
  | 0, _ => []
  | fuel + 1, bytes =>
    match bytes with
    | [] => []
    | b :: rest => (b :: rest).take (c + 1) :: piecesOf c fuel ((b :: rest).drop (c + 1))

/-- The writes of a data phase: one for chunk size 0, else pieces no larger than `c` (45_downstream_contract.md R115). -/
def chunks (c : Nat) (bytes : List Byte) : List (List Byte) :=
  match c with
  | 0 => [bytes]
  | k + 1 => piecesOf k bytes.length bytes

/-- The construction options of the surrounding driver that its bus traffic depends on (45_downstream_contract.md R103, R115, R122),
with the three command bytes, which the source does not give (R113, R124; log 13). The orientation flags never reach the block
(00_scope.md R4). -/
structure HostOptions where
  /-- `d`. -/
  mergeDistance : Nat
  /-- `c`; 0 is unchunked. -/
  chunkSize : Nat
  columnByte : Byte
  rowByte : Byte
  pixelsByte : Byte
deriving DecidableEq, Repr

/-- The command byte of a command (45_downstream_contract.md R113). -/
def HostOptions.commandByte (o : HostOptions) : WindowKind → Byte
  | .setColumnWindow => o.columnByte
  | .setRowWindow => o.rowByte
  | .writePixels => o.pixelsByte

/-- A call of the transport interface that an update makes (45_downstream_contract.md R117). -/
inductive BusCall where
  | selectCommandMode
  | selectDataMode
  | writeBytes (bytes : List Byte)
deriving DecidableEq, Repr

/-- The transport calls of one command: its one byte in the command phase, then its data, chunked, in the data phase
(45_downstream_contract.md R115). -/
def commandCalls (o : HostOptions) (command : WindowCommand) : List BusCall :=
  .selectCommandMode :: .writeBytes [o.commandByte command.kind] :: .selectDataMode ::
    (chunks o.chunkSize command.data).map .writeBytes

/-- The transport calls of one rectangle (45_downstream_contract.md R113 to R116). -/
def rectCalls (o : HostOptions) (cf : Raster Packed) (q : Rect) : List BusCall := (windowWrite cf q).flatMap (commandCalls o)

/-- The transport calls of an update: one windowed write per rectangle, in order (45_downstream_contract.md R120, R121). -/
def updateCalls (o : HostOptions) (cf : Raster Packed) (rs : List Rect) : List BusCall := rs.flatMap (rectCalls o cf)

/-- The panel's RAM after the rectangles were written with the frame's values: what is resident where nothing was written stays
(45_downstream_contract.md R112; log 14). -/
def paint (panel cf : Raster Packed) (rs : List Rect) : Raster Packed :=
  panel.mapIdx fun y row => row.mapIdx fun x v => if covered rs x y then (cf.get? x y).getD v else v

/-- `CONVERT; COMPARE`, the first half of `UPDATE` (45_downstream_contract.md R121). -/
def convertCompare (s : State) : Result := andThen (exec .convert s) (exec .compare)

/-- The second half of `UPDATE`: `COMMIT` if nothing was sent or every transmission succeeded, nothing if one failed
(45_downstream_contract.md R121, 42_cache_control.md R91). -/
def finish (delivered : Bool) (s : State) : Result := if delivered then exec .commit s else .next s

/-- `UPDATE` as far as the block sees it; the host sends `rectList d` of the state between the halves
(30_encoding.md R65, 45_downstream_contract.md R121). -/
def update (delivered : Bool) (s : State) : Result := andThen (convertCompare s) (finish delivered)

/-- `CLEAR r, g, b` = `FILL r, g, b; UPDATE` (30_encoding.md R65, 43_pixel_buffer_fill.md R98). -/
def clear (r g b : Byte) (delivered : Bool) (s : State) : Result := andThen (exec (.fill r g b) s) (update delivered)

/-- `REPAINT` = `INVALIDATE; UPDATE` (30_encoding.md R65). -/
def repaint (delivered : Bool) (s : State) : Result := andThen (exec .invalidate s) (update delivered)

end Sys2Proof.Machine
end

