-- ==== Sys2Proof/Machine/HostUpdate.lean ====
section
/-! DEFINITION. HOST SOFTWARE, OUTSIDE THE BLOCK: the procedure `Update()` with every operation it issues to the block and every call it
makes of the transport (45_downstream_contract.md R104, R120, R121). `step` calls nothing of it. -/

namespace Sys2Proof.Machine

/-- What the host's procedure runs over: the block, what was issued to it, what the transport carried out, and how many calls more the
transport carries out before it fails (none: it never fails). Only the first failure of an update matters, since it aborts the
update (45_downstream_contract.md R121, R123; log 15). -/
structure Session where
  block : State
  issued : List Operation
  bus : List BusCall
  failAfter : Option Nat
deriving DecidableEq, Repr

/-- How a part of the procedure ends. -/
inductive HostOutcome (α : Type) where
  /-- With a value. -/
  | done (value : α) (session : Session)
  /-- With `TransportError` (45_downstream_contract.md R121). -/
  | transportError (session : Session)
  /-- A read was answered without data. From a state whose stores have their shape no update ends so (log 15). -/
  | noData (session : Session)
deriving DecidableEq, Repr

/-- One part of the procedure after another: an error ends it. -/
def HostOutcome.bind {α β : Type} (o : HostOutcome α) (f : α → Session → HostOutcome β) : HostOutcome β :=
  match o with
  | .done v h => f v h
  | .transportError h => .transportError h
  | .noData h => .noData h

/-- The session after an operation that left the block in `t`. -/
def Session.after (h : Session) (op : Operation) (t : State) : Session := { h with block := t, issued := h.issued ++ [op] }

/-- The session after reads that the block answered: only the response of the block has changed. -/
def Session.afterReads (h : Session) (r : Option Response) (ops : List Operation) : Session :=
  { h with block := { h.block with response := r }, issued := h.issued ++ ops }

/-- The session after calls that the transport carried out, with what is left of its calls. -/
def Session.afterCalls (h : Session) (calls : List BusCall) (left : Option Nat) : Session :=
  { h with bus := h.bus ++ calls, failAfter := left }

/-- Issue a command to the block and wait for its response (00_scope.md R9). -/
def issueCommand (i : Instr) (h : Session) : HostOutcome Unit :=
  match execOperation (.command (encode i)) h.block with
  | .next t => .done () (h.after (.command (encode i)) t)
  | .fault _ => .noData h
  | .refused _ => .noData h

/-- The data a response carries. -/
def dataOf : Option Response → Option Word
  | some (.data v) => some v
  | some .ok => none
  | some (.err _) => none
  | none => none

/-- Issue a read transaction and take its data (45_downstream_contract.md R104). -/
def issueRead (p : Port) (h : Session) : HostOutcome Word :=
  match execOperation (.port p) h.block with
  | .next t =>
    match dataOf t.response with
    | some v => .done v (h.after (.port p) t)
    | none => .noData (h.after (.port p) t)
  | .fault _ => .noData h
  | .refused _ => .noData h

/-- Read one transaction after another. -/
def readAll : List Port → Session → HostOutcome (List Word)
  | [], h => .done [] h
  | p :: rest, h => (issueRead p h).bind fun v h => (readAll rest h).bind fun vs h => .done (v :: vs) h

/-- Read several rows. -/
def readRows : List (List Port) → Session → HostOutcome (List (List Word))
  | [], h => .done [] h
  | row :: rest, h => (readAll row h).bind fun v h => (readRows rest h).bind fun vs h => .done (v :: vs) h

/-- A coordinate as an operand of a transaction (20_memory.md R43). -/
def coord (i : Nat) : Coord := BitVec.ofNat 16 i

/-- The reads of the whole mask, row by row (45_downstream_contract.md R104: "all of them in the plain algorithm"). -/
def maskReads (w h : Nat) : List (List Port) :=
  (List.range h).map fun y => (List.range w).map fun x => .dmr (coord x) (coord y)

/-- The mask that `DMR` answers (20_memory.md R48). -/
def readMask (h : Session) : HostOutcome (Raster Bool) :=
  (readRows (maskReads h.block.w h.block.h) h).bind fun rows h => .done (Raster.map (fun v : Word => v.getLsbD 0) rows) h

/-- The three cases of the rectangle list, from STATUS and, only where it is needed, the mask (45_downstream_contract.md R104 to R106,
R108): FULL is bit 3 and ANY is bit 4 (10_state.md R25). -/
def readRects (d : Nat) (h : Session) : HostOutcome (List Rect) :=
  (issueRead .str h).bind fun status h =>
    if status.getLsbD 3 then .done [⟨0, 0, h.block.w - 1, h.block.h - 1⟩] h
    else if status.getLsbD 4 then (readMask h).bind fun m h => .done (rects h.block.w h.block.h d m) h
    else .done [] h

/-- The reads of a rectangle's pixels in payload order, columns outermost (45_downstream_contract.md R104, R114). -/
def pixelReads (q : Rect) : List Port :=
  (List.range' q.x1 (q.x2 + 1 - q.x1)).flatMap fun x =>
    (List.range' q.y1 (q.y2 + 1 - q.y1)).map fun y => .cfr (coord x) (coord y)

/-- The payload of a rectangle, its pixels as `CFR` answers them, each big-endian (45_downstream_contract.md R114, 20_memory.md R46). -/
def readPayload (q : Rect) (h : Session) : HostOutcome (List Byte) :=
  (readAll (pixelReads q) h).bind fun vs h => .done (vs.flatMap fun v => bigEndian (v.setWidth 16)) h

/-- One transport call, which may fail (45_downstream_contract.md R117). -/
def callBus (c : BusCall) (h : Session) : HostOutcome Unit :=
  match h.failAfter with
  | none => .done () (h.afterCalls [c] none)
  | some 0 => .transportError h
  | some (n + 1) => .done () (h.afterCalls [c] (some n))

/-- Transport calls in order, until one fails (45_downstream_contract.md R116). -/
def callAll : List BusCall → Session → HostOutcome Unit
  | [], h => .done () h
  | c :: rest, h => (callBus c h).bind fun _ h => callAll rest h

/-- Send one rectangle: read its pixels, then its three commands in order (45_downstream_contract.md R113 to R116; log 15). -/
def sendRect (o : HostOptions) (q : Rect) (h : Session) : HostOutcome Unit :=
  (readPayload q h).bind fun pixels h => callAll ((windowCommands q pixels).flatMap (commandCalls o)) h

/-- Send the rectangles in order; the first failure ends it (45_downstream_contract.md R121). -/
def sendRects (o : HostOptions) : List Rect → Session → HostOutcome Unit
  | [], h => .done () h
  | q :: rest, h => (sendRect o q h).bind fun _ h => sendRects o rest h

/-- `UPDATE`, the host's procedure (45_downstream_contract.md R120, R121, 30_encoding.md R65): it ends with success or with
`TransportError`, and then without `COMMIT` (42_cache_control.md R91, conflict C7 of 90_conflicts.md). -/
def hostUpdate (o : HostOptions) (h : Session) : HostOutcome Unit :=
  (issueCommand .convert h).bind fun _ h =>
    (issueCommand .compare h).bind fun _ h =>
      (readRects o.mergeDistance h).bind fun rs h =>
        (sendRects o rs h).bind fun _ h => issueCommand .commit h

/-- `Clear(color)`: `FILL`, then `UPDATE` (43_pixel_buffer_fill.md R98, 30_encoding.md R65). -/
def hostClear (o : HostOptions) (r g b : Byte) (h : Session) : HostOutcome Unit :=
  (issueCommand (.fill r g b) h).bind fun _ h => hostUpdate o h

/-- `REPAINT`: `INVALIDATE`, then `UPDATE` (30_encoding.md R65). -/
def hostRepaint (o : HostOptions) (h : Session) : HostOutcome Unit :=
  (issueCommand .invalidate h).bind fun _ h => hostUpdate o h

end Sys2Proof.Machine
end

