-- ==== Sys2Proof/Safety.lean ====
section
/-! DEFINITION. What claims are stated in: the invariants of 10_state.md R29, the start premises of 70_reset_and_hazards.md R160
and the pixel reads of the stores. -/

namespace Sys2Proof.Machine

/-- CF holds `v` at `(x, y)`. -/
def State.cfAt (s : State) (x y : Nat) : Option Packed := s.cf.bind fun r => r.get? x y

/-- PF holds `v` at `(x, y)`. -/
def State.pfAt (s : State) (x y : Nat) : Option Packed := s.pf.bind fun r => r.get? x y

/-- DM holds `v` at `(x, y)`. -/
def State.dmAt (s : State) (x y : Nat) : Option Bool := s.dm.bind fun r => r.get? x y

/-- The panel is of a legal size and every store that holds a value has its one shape, H rows of W elements (00_scope.md R5,
10_state.md R29 (a), 20_memory.md R30). -/
structure State.Shaped (s : State) : Prop where
  panel : panelWf s.w s.h = true
  pb : s.pb.wf s.w s.h = true
  cf : ∀ c, s.cf = some c → c.wf s.w s.h = true
  pf : ∀ p, s.pf = some p → p.wf s.w s.h = true
  dm : ∀ m, s.dm = some m → m.wf s.w s.h = true

/-- The invariants of 10_state.md R29, each under its letter, with the shapes of (a). -/
structure State.Inv (s : State) : Prop where
  /-- (a) -/
  shaped : s.Shaped
  /-- (b) -/
  maskNeedsFrame : s.dmv = true → s.cfv = true
  /-- (c) -/
  fullIsAbsent : s.dmv = true → s.full = !s.pfv
  /-- (d) -/
  noMaskNoFlags : s.dmv = false → s.full = false ∧ s.any = false
  /-- (e) -/
  fullIsAllDirty : s.full = true → s.any = true ∧ ∀ x y, x < s.w → y < s.h → s.dmAt x y = some true
  /-- (f) -/
  maskIsExact : s.dmv = true → s.pfv = true → ∀ x y, x < s.w → y < s.h →
    ∃ cur prev, s.cfAt x y = some cur ∧ s.pfAt x y = some prev ∧ s.dmAt x y = some (cur != prev)
  /-- (g) -/
  anyIsOr : s.dmv = true → (s.any = true ↔ ∃ x y, x < s.w ∧ y < s.h ∧ s.dmAt x y = some true)
  /-- (j) -/
  cacheNeedsFrame : s.pfv = true → s.cfv = true

/-- `AfterReset`: the state of rules R143 to R145 with PB arbitrary (70_reset_and_hazards.md R160). -/
def State.AfterReset (s : State) : Prop :=
  s.cf = none ∧ s.pf = none ∧ s.dm = none ∧ s.full = false ∧ s.any = false ∧ s.err = none

/-- `NoError`: `ERR = 0` (70_reset_and_hazards.md R160). -/
def State.NoError (s : State) : Prop := s.err = none

/-- `Synced`: `PFV = 1` and the panel's RAM equals PF pixel for pixel; the panel is outside the block, so its content is an argument
(70_reset_and_hazards.md R160). -/
def State.Synced (s : State) (panel : Raster Packed) : Prop := s.pf = some panel

/-- `Fresh`: `CFV = 1` and CF is the conversion of the present PB (70_reset_and_hazards.md R160). -/
def State.Fresh (s : State) : Prop := s.cf = some (convertFrame s.pb)

/-- What a refusal with cause `k` leaves of `s`: the response `ERR(k)`, ERR written if it was 0, nothing else changed
(60_exceptions.md R133). -/
def State.RefusedWith (k : Cause) (s t : State) : Prop := t = { s with err := some (s.err.getD k), response := some (.err k) }

/-- The request that presents the word of a command. -/
def commandRequest (i : Instr) : Request := .operation (.command (encode i))

/-- The next request is this one. -/
def State.nextIs (s : State) (q : Request) : Prop := s.pending.head? = some q

/-- The next request is the reset input, between operations or during one. -/
def State.nextIsReset (s : State) : Prop := s.nextIs .rst ∨ ∃ op, s.nextIs (.rstDuring op)

/-- The six values bits 4:0 of STATUS take (10_state.md R29 (k)). -/
def legalFlagBits : List (BitVec 5) := [0x00, 0x01, 0x1D, 0x03, 0x07, 0x17]

end Sys2Proof.Machine
end

