-- ==== Sys2Proof/Certificates/Slice0/Obligations.lean ====
section
/-! DEFINITION. The statements for the provers, each with the rules of spec/ it formalises. -/

open Sys2Proof Sys2Proof.Machine

/-! ### Encoding -/

/-- Words written out in 30_encoding.md R59, R63 and 95_test_vectors.md 4.5 decode to what they stand for. -/
def Obligations.SpecWordsDecode : Prop :=
  decode 0x01000000 = .ok .convert ∧ decode 0x02000000 = .ok .compare ∧ decode 0x03000000 = .ok .commit ∧
    decode 0x04000000 = .ok .invalidate ∧ decode 0x05FF0000 = .ok (.fill 255 0 0) ∧ decode 0x05123456 = .ok (.fill 18 52 86) ∧
    decode 0x00000005 = .error .noSuchOpcode ∧ decode 0x01000001 = .error .operandNotZero ∧
    decode 0x85000000 = .error .noSuchOpcode ∧ decode 0xFFFFFFFF = .error .noSuchOpcode

/-- 30_encoding.md R67: `decode(encode(k)) = k` for every command, `encode(decode(w)) = w` for every word that is not illegal. -/
def Obligations.DecodeEncodeAgree : Prop :=
  (∀ i : Instr, i.wellFormed = true → decode (encode i) = .ok i) ∧ ∀ (w : Word) (i : Instr), decode w = .ok i → encode i = w

/-- 30_encoding.md R59: a word is a command exactly when one row of the opcode map selects it, no word is selected by two rows, and
`FILL` takes its operands from bits 23:16, 15:8 and 7:0 (R57). -/
def Obligations.DecoderFollowsOpcodeMap : Prop :=
  (∀ (w : Word) (i : Instr), decode w = .ok i → ∃ row ∈ opcodeMap, row.selects w = true ∧ row.mnemonic = i.mnemonic) ∧
    (∀ (w : Word) (row : OpcodeRow), row ∈ opcodeMap → row.selects w = true →
      ∃ i, decode w = .ok i ∧ i.mnemonic = row.mnemonic) ∧
    (∀ (w : Word) (row row' : OpcodeRow), row ∈ opcodeMap → row' ∈ opcodeMap → row.selects w = true → row'.selects w = true →
      row = row') ∧
    ∀ (w : Word) (r g b : Byte), decode w = .ok (.fill r g b) →
      r.toNat = w.toNat / 2 ^ 16 % 256 ∧ g.toNat = w.toNat / 2 ^ 8 % 256 ∧ b.toNat = w.toNat % 256

/-- 60_exceptions.md R126: opcode 0x00, opcode 0x06 to 0xFF, or opcode 0x01 to 0x04 with non-zero bits 23:0: refused with
`E_ILLEGAL`, nothing is executed. -/
def Obligations.IllegalWordIsRefused : Prop :=
  ∀ (s : State) (w : Word) (rest : List Request), s.pending = .operation (.command w) :: rest →
    (w.toNat / 2 ^ 24 = 0 ∨ 6 ≤ w.toNat / 2 ^ 24 ∨ (1 ≤ w.toNat / 2 ^ 24 ∧ w.toNat / 2 ^ 24 ≤ 4 ∧ w.toNat % 2 ^ 24 ≠ 0)) →
    ∃ t, step s = .next t ∧ State.RefusedWith .illegal { s with pending := rest } t

/-! ### Steps -/

/-- A step runs the decoded command: the next request is taken off the host's sequence and the instruction its word decodes to is
executed (20_memory.md R50, 30_encoding.md R67); so `withFetchWord` presents exactly the instruction of a table word. -/
def Obligations.StepRunsDecodedCommand : Prop :=
  (∀ (s : State) (w : Word) (rest : List Request) (i : Instr), s.pending = .operation (.command w) :: rest → decode w = .ok i →
    step s = exec i { s with pending := rest }) ∧
    ∀ (s : State) (w : Nat) (i : Instr), w < 2 ^ 32 → decodeTableWord 32 w = some i → step (s.withFetchWord 32 w) = exec i s

/-- A step on a port transaction executes it; with nothing pending the block waits, unchanged (the model's choice, log 3, for
10_state.md R14 "waits for the next"). -/
def Obligations.StepRunsPortOrWaits : Prop :=
  (∀ (s : State) (p : Port) (rest : List Request), s.pending = .operation (.port p) :: rest →
    step s = execPort p { s with pending := rest }) ∧ ∀ s : State, s.pending = [] → step s = .next s

/-! ### The colour converter -/

/-- 40_color_converter.md R68 to R72: the three reductions, the layout `{red8[7:3], green8[7:2], blue8[7:3]}`, the formula, and the
OR as a sum. -/
def Obligations.Pack565IsTheLayout : Prop :=
  ∀ p : Pixel,
    (red5 p.r).toNat = p.r.toNat / 8 ∧ (green6 p.g).toNat = p.g.toNat / 4 ∧ (blue5 p.b).toNat = p.b.toNat / 8 ∧
      pack565 p = (p.r.extractLsb' 3 5 ++ p.g.extractLsb' 2 6 ++ p.b.extractLsb' 3 5 : BitVec 16) ∧
      pack565 p = ((p.r.setWidth 16 >>> 3) <<< 11) ||| ((p.g.setWidth 16 >>> 2) <<< 5) ||| (p.b.setWidth 16 >>> 3) ∧
      (pack565 p).toNat = p.r.toNat / 8 * 2048 + p.g.toNat / 4 * 32 + p.b.toNat / 8

/-- 40_color_converter.md R73: quantisation classes (a), onto (b), monotone in each channel (c). -/
def Obligations.Pack565Classes : Prop :=
  (∀ p q : Pixel, pack565 p = pack565 q ↔
    p.r.toNat / 8 = q.r.toNat / 8 ∧ p.g.toNat / 4 = q.g.toNat / 4 ∧ p.b.toNat / 8 = q.b.toNat / 8) ∧
    (∀ v : Packed, ∃ p : Pixel, pack565 p = v) ∧
    ∀ p q : Pixel, p.r ≤ q.r → p.g ≤ q.g → p.b ≤ q.b → pack565 p ≤ pack565 q

/-- 40_color_converter.md R76: in every state `CONVERT` responds `OK`, converts every pixel, sets CFV, drops the mask and touches
nothing else. -/
def Obligations.ConvertConvertsTheBuffer : Prop :=
  ∀ s : State, ∃ t, exec .convert s = .next t ∧ t.response = some .ok ∧
    (∀ (x y : Nat) (p : Pixel), s.pb.get? x y = some p → t.cfAt x y =
      some (((p.r.setWidth 16 >>> 3) <<< 11) ||| ((p.g.setWidth 16 >>> 2) <<< 5) ||| (p.b.setWidth 16 >>> 3))) ∧
    (∀ x y : Nat, s.pb.get? x y = none → t.cfAt x y = none) ∧
    t.cfv = true ∧ t.dmv = false ∧ t.full = false ∧ t.any = false ∧
    t.pb = s.pb ∧ t.pf = s.pf ∧ t.err = s.err ∧ t.w = s.w ∧ t.h = s.h ∧ t.pending = s.pending ∧ t.draws = s.draws

/-- 40_color_converter.md R74: the output at a pixel depends on the input at that pixel only, on no neighbour, no previous frame and
no other state. -/
def Obligations.ConvertIsElementwise : Prop :=
  ∀ (s s' t t' : State) (x y : Nat), s.pb.get? x y = s'.pb.get? x y → exec .convert s = .next t → exec .convert s' = .next t' →
    t.cfAt x y = t'.cfAt x y

/-! ### The frame comparator -/

/-- 41_frame_comparator.md R82 (with R78, R79): refused with `E_SEQ` while `CFV = 0`; with a present cache DM is the exact
difference, FULL 0, ANY the OR; with an absent one DM is all ones, FULL and ANY 1; nothing else changes. R84: the absent case
whatever PB and CF hold. -/
def Obligations.CompareComputesTheMask : Prop :=
  ∀ s : State,
    (s.cfv = false → ∃ t, exec .compare s = .next t ∧ State.RefusedWith .seq s t) ∧
    (s.cfv = true → ∃ t, exec .compare s = .next t ∧ t.response = some .ok ∧ t.dmv = true ∧
      (s.pfv = true → t.full = false ∧
        (∀ (x y : Nat) (cur prev : Packed), s.cfAt x y = some cur → s.pfAt x y = some prev → t.dmAt x y = some (cur != prev)) ∧
        (t.any = true ↔ ∃ x y cur prev, s.cfAt x y = some cur ∧ s.pfAt x y = some prev ∧ cur ≠ prev)) ∧
      (s.pfv = false → t.full = true ∧ t.any = true ∧ ∀ x y : Nat, x < s.w → y < s.h → t.dmAt x y = some true) ∧
      t.pb = s.pb ∧ t.cf = s.cf ∧ t.pf = s.pf ∧ t.err = s.err ∧ t.w = s.w ∧ t.h = s.h ∧ t.pending = s.pending ∧
      t.draws = s.draws)

/-- 41_frame_comparator.md R81: the comparator never reads PB; two states that differ in PB only get the same mask and flags. -/
def Obligations.CompareNeverReadsTheBuffer : Prop :=
  ∀ (s t t' : State) (pb' : Raster Pixel), exec .compare s = .next t → exec .compare { s with pb := pb' } = .next t' →
    t' = { t with pb := pb' }

/-- 41_frame_comparator.md R80: an element of DM depends on CF and PF at that pixel and on PFV only. -/
def Obligations.CompareIsElementwise : Prop :=
  ∀ (s s' t t' : State) (x y : Nat), s.cfv = true → s'.cfv = true → s.w = s'.w → s.h = s'.h → s.pfv = s'.pfv →
    s.cfAt x y = s'.cfAt x y → s.pfAt x y = s'.pfAt x y → exec .compare s = .next t → exec .compare s' = .next t' →
    t.dmAt x y = t'.dmAt x y

/-- 41_frame_comparator.md R85: `CONVERT; COMPARE; COMMIT` and then, with no write to PB, `CONVERT; COMPARE` leaves `ANY = 0` and DM
all zeros. -/
def Obligations.NoChangeGivesAnEmptyMask : Prop :=
  ∀ s : State, s.Shaped → ∃ t,
    andThen (andThen (andThen (andThen (exec .convert s) (exec .compare)) (exec .commit)) (exec .convert)) (exec .compare) = .next t ∧
      t.any = false ∧ t.full = false ∧ t.dmv = true ∧ ∀ x y : Nat, x < s.w → y < s.h → t.dmAt x y = some false

/-! ### Cache control -/

/-- 42_cache_control.md R88: refused with `E_SEQ` while `CFV = 0`; else PF becomes CF element for element, PFV 1, the mask is
dropped and nothing else changes. -/
def Obligations.CommitCopiesTheFrame : Prop :=
  ∀ s : State,
    (s.cfv = false → ∃ t, exec .commit s = .next t ∧ State.RefusedWith .seq s t) ∧
    (s.cfv = true → ∃ t, exec .commit s = .next t ∧ t.response = some .ok ∧ t.pfv = true ∧
      (∀ x y : Nat, t.pfAt x y = s.cfAt x y) ∧ t.dmv = false ∧ t.full = false ∧ t.any = false ∧
      t.pb = s.pb ∧ t.cf = s.cf ∧ t.err = s.err ∧ t.w = s.w ∧ t.h = s.h ∧ t.pending = s.pending ∧ t.draws = s.draws)

/-- 42_cache_control.md R93: in every state `INVALIDATE` responds `OK`, makes PF absent, drops the mask and touches nothing else. -/
def Obligations.InvalidateMakesTheCacheAbsent : Prop :=
  ∀ s : State, ∃ t, exec .invalidate s = .next t ∧ t.response = some .ok ∧ t.pfv = false ∧ (∀ x y : Nat, t.pfAt x y = none) ∧
    t.dmv = false ∧ t.full = false ∧ t.any = false ∧
    t.pb = s.pb ∧ t.cf = s.cf ∧ t.err = s.err ∧ t.w = s.w ∧ t.h = s.h ∧ t.pending = s.pending ∧ t.draws = s.draws

/-- 42_cache_control.md R95: from any state `INVALIDATE; CONVERT; COMPARE` ends with `FULL = 1`, `ANY = 1`, DM all ones; the host
sends the one rectangle of the whole panel for every merge distance, and a `COMMIT` makes the cache present. -/
def Obligations.InvalidateForcesAFullRepaint : Prop :=
  ∀ (s : State) (d : Nat), ∃ t u,
    andThen (andThen (exec .invalidate s) (exec .convert)) (exec .compare) = .next t ∧ t.full = true ∧ t.any = true ∧
      (∀ x y : Nat, x < s.w → y < s.h → t.dmAt x y = some true) ∧ rectList d t = [⟨0, 0, s.w - 1, s.h - 1⟩] ∧
      exec .commit t = .next u ∧ u.pfv = true

/-- 42_cache_control.md R87: PF and PFV change only by a `COMMIT`, to a copy of CF, by an `INVALIDATE`, to absent, and by reset, to
absent. -/
def Obligations.CacheChangesInTwoWays : Prop :=
  ∀ s t : State, step s = .next t → t.pf = s.pf ∨
    (s.nextIs (commandRequest .commit) ∧ s.cfv = true ∧ t.pf = s.cf) ∨
    ((s.nextIs (commandRequest .invalidate) ∨ s.nextIsReset) ∧ t.pf = none)

/-! ### Pixel buffer fill and the stores' writers -/

/-- 43_pixel_buffer_fill.md R96: in every state `FILL` responds `OK`, writes every pixel of PB and touches nothing else. -/
def Obligations.FillWritesEveryPixel : Prop :=
  ∀ (s : State) (r g b : Byte), ∃ t, exec (.fill r g b) s = .next t ∧ t.response = some .ok ∧
    (∀ x y : Nat, t.pb.get? x y = if x < s.w ∧ y < s.h then some ⟨r, g, b⟩ else none) ∧
    t.cf = s.cf ∧ t.pf = s.pf ∧ t.dm = s.dm ∧ t.full = s.full ∧ t.any = s.any ∧ t.err = s.err ∧ t.w = s.w ∧ t.h = s.h ∧
    t.pending = s.pending ∧ t.draws = s.draws

/-- 43_pixel_buffer_fill.md R97 (a): `FILL r, g, b` leaves the state that `PBW x, y, r, g, b` over every pixel leaves, in whatever
order and however often. -/
def Obligations.FillIsAWriteOfEveryPixel : Prop :=
  ∀ (s : State) (r g b : Byte) (places : List (Coord × Coord)), s.Shaped →
    (∀ c ∈ places, c.1.toNat < s.w ∧ c.2.toNat < s.h) →
    (∀ x y : Nat, x < s.w → y < s.h → (BitVec.ofNat 16 x, BitVec.ofNat 16 y) ∈ places) →
    places.foldl (fun o c => andThen o (execPort (.pbw c.1 c.2 r g b))) (.next s) = exec (.fill r g b) s

/-- 20_memory.md R32 and 10_state.md R15, R16, R18: which requests can change PB, CF and DM. -/
def Obligations.StoresHaveTheirWriters : Prop :=
  ∀ s t : State, step s = .next t →
    (t.pb ≠ s.pb → (∃ r g b, s.nextIs (commandRequest (.fill r g b))) ∨
      (∃ x y r g b, s.nextIs (.operation (.port (.pbw x y r g b)))) ∨
      (∃ h w n data, s.nextIs (.operation (.port (.pbl h w n data)))) ∨ ∃ op, s.nextIs (.rstDuring op)) ∧
    (t.cf ≠ s.cf → (s.nextIs (commandRequest .convert) ∧ t.cf = some (convertFrame s.pb)) ∨ (s.nextIsReset ∧ t.cf = none)) ∧
    (t.dm ≠ s.dm → s.nextIs (commandRequest .compare) ∨
      ((s.nextIs (commandRequest .convert) ∨ s.nextIs (commandRequest .commit) ∨ s.nextIs (commandRequest .invalidate) ∨
        s.nextIsReset) ∧ t.dm = none))

/-! ### Port transactions -/

/-- 20_memory.md R43: off the panel `PBW` is refused with `E_RANGE`; on it the one pixel is written, every other element of every
store and every flag is unchanged. -/
def Obligations.PbwWritesOnePixel : Prop :=
  ∀ (s : State) (x y : Coord) (r g b : Byte),
    ((s.w ≤ x.toNat ∨ s.h ≤ y.toNat) → ∃ t, execPort (.pbw x y r g b) s = .next t ∧ State.RefusedWith .range s t) ∧
    (x.toNat < s.w → y.toNat < s.h → s.Shaped → ∃ t, execPort (.pbw x y r g b) s = .next t ∧ t.response = some .ok ∧
      t.pb.get? x.toNat y.toNat = some ⟨r, g, b⟩ ∧
      (∀ x' y' : Nat, (x' ≠ x.toNat ∨ y' ≠ y.toNat) → t.pb.get? x' y' = s.pb.get? x' y') ∧
      t.cf = s.cf ∧ t.pf = s.pf ∧ t.dm = s.dm ∧ t.full = s.full ∧ t.any = s.any ∧ t.err = s.err ∧ t.w = s.w ∧ t.h = s.h ∧
      t.pending = s.pending ∧ t.draws = s.draws)

/-- 20_memory.md R44, R35: off the panel `PBR` is refused with `E_RANGE`; on it the response is the pixel's 24-bit word, and nothing
else changes. That the response's 32-bit data has zeros above the 24 bits is the model's choice (log 8). -/
def Obligations.PbrReadsOnePixel : Prop :=
  ∀ (s : State) (x y : Coord),
    ((s.w ≤ x.toNat ∨ s.h ≤ y.toNat) → ∃ t, execPort (.pbr x y) s = .next t ∧ State.RefusedWith .range s t) ∧
    (x.toNat < s.w → y.toNat < s.h → s.Shaped → ∃ p v, s.pb.get? x.toNat y.toNat = some p ∧
      v.toNat = p.r.toNat * 65536 + p.g.toNat * 256 + p.b.toNat ∧
      execPort (.pbr x y) s = .next { s with response := some (.data v) })

/-- 20_memory.md R45: a declared shape other than `(H, W, 3)` is refused with `E_SHAPE` and leaves PB; the right one replaces every
channel of every pixel and touches nothing else. -/
def Obligations.PblReplacesTheBuffer : Prop :=
  ∀ (s : State) (h w n : BitVec 17) (data : Vector (Vector (Vector Byte n.toNat) w.toNat) h.toNat),
    ((h.toNat ≠ s.h ∨ w.toNat ≠ s.w ∨ n.toNat ≠ 3) →
      ∃ t, execPort (.pbl h w n data) s = .next t ∧ State.RefusedWith .shape s t) ∧
    (h.toNat = s.h → w.toNat = s.w → n.toNat = 3 → ∃ t, execPort (.pbl h w n data) s = .next t ∧ t.response = some .ok ∧
      (∀ (y : Fin h.toNat) (x : Fin w.toNat), ∃ p, t.pb.get? x.val y.val = some p ∧
        (data[y][x])[0]? = some p.r ∧ (data[y][x])[1]? = some p.g ∧ (data[y][x])[2]? = some p.b) ∧
      t.pb.wf s.w s.h = true ∧
      t.cf = s.cf ∧ t.pf = s.pf ∧ t.dm = s.dm ∧ t.full = s.full ∧ t.any = s.any ∧ t.err = s.err ∧ t.w = s.w ∧ t.h = s.h ∧
      t.pending = s.pending ∧ t.draws = s.draws)

/-- 20_memory.md R46, R42: `CFR` is refused with `E_RANGE` off the panel, then with `E_INVALID` while `CFV = 0`, and else responds
the element with zero high bits; nothing else changes. -/
def Obligations.CfrReadsTheFrame : Prop :=
  ∀ (s : State) (x y : Coord),
    ((s.w ≤ x.toNat ∨ s.h ≤ y.toNat) → ∃ t, execPort (.cfr x y) s = .next t ∧ State.RefusedWith .range s t) ∧
    (x.toNat < s.w → y.toNat < s.h → s.cfv = false → ∃ t, execPort (.cfr x y) s = .next t ∧ State.RefusedWith .invalid s t) ∧
    (x.toNat < s.w → y.toNat < s.h → s.cfv = true → s.Shaped → ∃ v : Packed, ∃ d : Word,
      s.cfAt x.toNat y.toNat = some v ∧ d.toNat = v.toNat ∧
      execPort (.cfr x y) s = .next { s with response := some (.data d) })

/-- 20_memory.md R47, R42: the same of `PFR`, PF and PFV. -/
def Obligations.PfrReadsTheCache : Prop :=
  ∀ (s : State) (x y : Coord),
    ((s.w ≤ x.toNat ∨ s.h ≤ y.toNat) → ∃ t, execPort (.pfr x y) s = .next t ∧ State.RefusedWith .range s t) ∧
    (x.toNat < s.w → y.toNat < s.h → s.pfv = false → ∃ t, execPort (.pfr x y) s = .next t ∧ State.RefusedWith .invalid s t) ∧
    (x.toNat < s.w → y.toNat < s.h → s.pfv = true → s.Shaped → ∃ v : Packed, ∃ d : Word,
      s.pfAt x.toNat y.toNat = some v ∧ d.toNat = v.toNat ∧
      execPort (.pfr x y) s = .next { s with response := some (.data d) })

/-- 20_memory.md R48, R42: the same of `DMR`, DM and DMV; the data is 0 or 1. -/
def Obligations.DmrReadsTheMask : Prop :=
  ∀ (s : State) (x y : Coord),
    ((s.w ≤ x.toNat ∨ s.h ≤ y.toNat) → ∃ t, execPort (.dmr x y) s = .next t ∧ State.RefusedWith .range s t) ∧
    (x.toNat < s.w → y.toNat < s.h → s.dmv = false → ∃ t, execPort (.dmr x y) s = .next t ∧ State.RefusedWith .invalid s t) ∧
    (x.toNat < s.w → y.toNat < s.h → s.dmv = true → s.Shaped → ∃ v : Bool, s.dmAt x.toNat y.toNat = some v ∧
      execPort (.dmr x y) s = .next { s with response := some (.data (if v then 1 else 0)) })

/-- 20_memory.md R49 with the layout of 10_state.md R25: `STR` is never refused and responds STATUS, whose bits are the flags, ERR
and zeros; nothing else changes. -/
def Obligations.StrReadsStatus : Prop :=
  ∀ s : State, ∃ v : Word, execPort .str s = .next { s with response := some (.data v) } ∧
    v.getLsbD 0 = s.cfv ∧ v.getLsbD 1 = s.pfv ∧ v.getLsbD 2 = s.dmv ∧ v.getLsbD 3 = s.full ∧ v.getLsbD 4 = s.any ∧
    (∀ i, 5 ≤ i → i ≤ 7 → v.getLsbD i = false) ∧ v.extractLsb' 8 4 = s.errCode ∧ ∀ i, 12 ≤ i → v.getLsbD i = false

/-! ### Flags, errors -/

/-- 10_state.md R24: the table of every writer of every flag, reset and refused operations included. -/
def Obligations.FlagsFollowTheTable : Prop :=
  ∀ s t : State,
    (exec .convert s = .next t →
      t.cfv = true ∧ t.pfv = s.pfv ∧ t.dmv = false ∧ t.full = false ∧ t.any = false) ∧
    (exec .compare s = .next t → s.cfv = true → s.Shaped →
      t.cfv = true ∧ t.pfv = s.pfv ∧ t.dmv = true ∧ t.full = !s.pfv ∧ ∃ m, t.dm = some m ∧ t.any = m.anyTrue) ∧
    (exec .commit s = .next t → s.cfv = true →
      t.cfv = true ∧ t.pfv = true ∧ t.dmv = false ∧ t.full = false ∧ t.any = false) ∧
    (exec .invalidate s = .next t →
      t.cfv = s.cfv ∧ t.pfv = false ∧ t.dmv = false ∧ t.full = false ∧ t.any = false) ∧
    (∀ r g b, exec (.fill r g b) s = .next t →
      t.cfv = s.cfv ∧ t.pfv = s.pfv ∧ t.dmv = s.dmv ∧ t.full = s.full ∧ t.any = s.any) ∧
    (∀ p, execPort p s = .next t →
      t.cfv = s.cfv ∧ t.pfv = s.pfv ∧ t.dmv = s.dmv ∧ t.full = s.full ∧ t.any = s.any) ∧
    (∀ op k, execOperation op s = .next t → t.response = some (.err k) →
      t.cfv = s.cfv ∧ t.pfv = s.pfv ∧ t.dmv = s.dmv ∧ t.full = s.full ∧ t.any = s.any) ∧
    (s.nextIsReset → step s = .next t →
      t.cfv = false ∧ t.pfv = false ∧ t.dmv = false ∧ t.full = false ∧ t.any = false)

/-- 60_exceptions.md R125 with the order of R132: the codes, and whatever the operation, it answers with a cause exactly when the
table lists the operation for that cause and the cause's condition holds, the range before the validity. -/
def Obligations.CausesFollowTheTable : Prop :=
  (Cause.illegal.code = 1 ∧ Cause.seq.code = 2 ∧ Cause.range.code = 3 ∧ Cause.shape.code = 4 ∧ Cause.invalid.code = 5 ∧
      ∀ s : State, s.err = none → s.errCode = 0) ∧
    ∀ (op : Operation) (s t : State) (k : Cause), execOperation op s = .next t → (t.response = some (.err k) ↔
      match k with
      | .illegal => ∃ w, op = .command w ∧ ∀ i, decode w ≠ .ok i
      | .seq => s.cfv = false ∧ (op = .command (encode .compare) ∨ op = .command (encode .commit))
      | .range => ∃ x y, (s.w ≤ x.toNat ∨ s.h ≤ y.toNat) ∧ ((∃ r g b, op = .port (.pbw x y r g b)) ∨ op = .port (.pbr x y) ∨
          op = .port (.cfr x y) ∨ op = .port (.pfr x y) ∨ op = .port (.dmr x y))
      | .shape => ∃ h w n data, op = .port (.pbl h w n data) ∧ (h.toNat ≠ s.h ∨ w.toNat ≠ s.w ∨ n.toNat ≠ 3)
      | .invalid => ∃ x y, x.toNat < s.w ∧ y.toNat < s.h ∧ ((op = .port (.cfr x y) ∧ s.cfv = false) ∨
          (op = .port (.pfr x y) ∧ s.pfv = false) ∨ (op = .port (.dmr x y) ∧ s.dmv = false)))

/-- 60_exceptions.md R133, R136: whatever the operation, a response `ERR(k)` goes with ERR written if it was 0 and with nothing else
changed; and the next operation is executed normally whatever ERR holds: only ERR itself, and the STATUS that `STR` reads, can tell. -/
def Obligations.RefusalChangesNothingElse : Prop :=
  (∀ (op : Operation) (s t : State) (k : Cause), execOperation op s = .next t → t.response = some (.err k) →
    State.RefusedWith k s t) ∧
    ∀ (op : Operation) (s t : State) (e : Option Cause), execOperation op s = .next t →
      ∃ u, execOperation op { s with err := e } = .next u ∧ u = { t with err := u.err, response := u.response } ∧
        (op ≠ .port .str → u.response = t.response)

/-- 60_exceptions.md R135 and 10_state.md R26: ERR, once non-zero, is changed by nothing but reset, which sets it to 0; it becomes
non-zero only by a refused operation, with that operation's cause. -/
def Obligations.ErrorIsSticky : Prop :=
  ∀ s t : State, step s = .next t →
    (s.nextIsReset → t.err = none) ∧
    (¬s.nextIsReset → ∀ k, s.err = some k → t.err = some k) ∧
    ∀ k, s.err = none → t.err = some k → t.response = some (.err k)

/-- 20_memory.md R40: a read changes nothing but the response, unless it is refused and ERR was 0; repeating any operation
immediately leaves the state as the first left it. -/
def Obligations.RepeatingChangesNothing : Prop :=
  (∀ (p : Port) (s t : State) (v : Word), execPort p s = .next t → t.response = some (.data v) →
    t = { s with response := some (.data v) }) ∧
    ∀ (op : Operation) (s t : State), execOperation op s = .next t → execOperation op t = .next t

/-! ### Reset -/

/-- 70_reset_and_hazards.md R143, R144, R145: after power-on and reset the flags and ERR are 0, `STR` answers 0, PB holds `PB_INIT`;
`rst` does not alter PB; in a state after reset the reads of CF, PF and DM are refused with `E_INVALID`, `COMPARE` and `COMMIT` with
`E_SEQ`. -/
def Obligations.ResetState : Prop :=
  (State.reset.AfterReset ∧ ∀ x y : Nat, State.reset.pb.get? x y =
    if x < Config.width ∧ y < Config.height then some (Config.pbInit y x) else none) ∧
  (∀ (s : State) (rest : List Request), s.pending = .rst :: rest →
    ∃ t, step s = .next t ∧ t.AfterReset ∧ t.pb = s.pb ∧ t.w = s.w ∧ t.h = s.h) ∧
  ∀ t : State, t.AfterReset →
    t.cfv = false ∧ t.pfv = false ∧ t.dmv = false ∧ t.full = false ∧ t.any = false ∧ t.errCode = 0 ∧
    execPort .str t = .next { t with response := some (.data 0) } ∧
    (∀ x y : Coord, x.toNat < t.w → y.toNat < t.h →
      (∃ u, execPort (.cfr x y) t = .next u ∧ State.RefusedWith .invalid t u) ∧
      (∃ u, execPort (.pfr x y) t = .next u ∧ State.RefusedWith .invalid t u) ∧
      ∃ u, execPort (.dmr x y) t = .next u ∧ State.RefusedWith .invalid t u) ∧
    (∃ u, exec .compare t = .next u ∧ State.RefusedWith .seq t u) ∧
    ∃ u, exec .commit t = .next u ∧ State.RefusedWith .seq t u

/-- 70_reset_and_hazards.md R142 to R145: `rst` between operations leaves PB and gives no response, the flags and ERR are 0 and the
stores without value are refused; a `rst` that abandons an operation does the same but for PB after a `FILL` or a `PBL`, of which
only the shape is said (U10; log 9). -/
def Obligations.RstClearsAllButTheBuffer : Prop :=
  ∀ (s : State) (rest : List Request),
    (s.pending = .rst :: rest → ∃ t, step s = .next t ∧ t.AfterReset ∧ t.status = 0 ∧ t.response = none ∧ t.pb = s.pb ∧
      t.w = s.w ∧ t.h = s.h ∧ t.pending = rest) ∧
    ∀ op, s.pending = .rstDuring op :: rest → ∃ t, step s = .next t ∧ t.AfterReset ∧ t.status = 0 ∧ t.response = none ∧
      (s.Shaped → t.Shaped) ∧
      ((∀ r g b, op ≠ .command (encode (.fill r g b))) → (∀ h w n data, op ≠ .port (.pbl h w n data)) → t.pb = s.pb) ∧
      t.w = s.w ∧ t.h = s.h ∧ t.pending = rest

/-! ### Invariants of the whole machine -/

/-- The state after reset meets the invariants of 10_state.md R29. -/
def Obligations.ResetMeetsTheInvariants : Prop := State.reset.Inv

/-- 10_state.md R29 (a) to (g) and (j): every step keeps them. -/
def Obligations.StepKeepsTheInvariants : Prop := ∀ s t : State, s.Inv → step s = .next t → t.Inv

/-- 10_state.md R29 (k): bits 4:0 of STATUS take only six values. -/
def Obligations.StatusTakesSixValues : Prop := ∀ s : State, s.Inv → s.status.extractLsb' 0 5 ∈ legalFlagBits

/-- 10_state.md R29 (h), over every run from every state: a CF that holds a value and is not the first state's is the conversion of
what PB held at some earlier moment. -/
def Obligations.FrameWasConvertedEarlier : Prop :=
  ∀ (n : Nat) (s t : State) (c : Raster Packed), core.run n s = .next t → t.cf = some c → s.cf = some c ∨
    ∃ (m : Nat) (u : State), m < n ∧ core.run m s = .next u ∧ c = convertFrame u.pb

/-- 10_state.md R29 (i), over every run from every state: a present PF is the first state's or what CF held at the most recent
`COMMIT`. -/
def Obligations.CacheIsTheLatestCommit : Prop :=
  ∀ (n : Nat) (s t : State) (p : Raster Packed), core.run n s = .next t → t.pf = some p → s.pf = some p ∨
    ∃ (m : Nat) (u : State), m < n ∧ core.run m s = .next u ∧ u.nextIs (commandRequest .commit) ∧ u.cf = some p ∧
      ∀ (m' : Nat) (u' : State), m < m' → m' < n → core.run m' s = .next u' → ¬u'.nextIs (commandRequest .commit)

/-- 70_reset_and_hazards.md R159, R157: the block never stops of itself; from a state that meets the invariants a run of any length
goes on, whatever the host presents. -/
def Obligations.BlockNeverStops : Prop := ∀ (n : Nat) (s : State), s.Inv → ∃ t, core.run n s = .next t ∧ t.w = s.w ∧ t.h = s.h

/-! ### The downstream contract: host software over the block's outputs (outside the block) -/

/-- 45_downstream_contract.md R111 (c): two single dirty rows `k` apart merge into one band exactly when `k < d`. -/
def Obligations.BandGapTest : Prop :=
  ∀ d r k : Nat, 1 ≤ k → bands d [r, r + k] = if k < d then [(r, r + k)] else [(r, r), (r + k, r + k)]

/-- 45_downstream_contract.md R101, R102, R111 (a): every rectangle is on the panel and not empty, every dirty pixel is covered, and
no pixel by two rectangles of the list. -/
def Obligations.RectsCoverEveryDirtyPixel : Prop :=
  ∀ (w h d : Nat) (m : Raster Bool),
    (∀ q ∈ rects w h d m, q.onPanel w h = true) ∧
    (∀ x y : Nat, x < w → y < h → m.get? x y = some true → covered (rects w h d m) x y = true) ∧
    (rects w h d m).Pairwise fun q q' => ∀ x y : Nat, ¬(q.contains x y = true ∧ q'.contains x y = true)

/-- 45_downstream_contract.md R111 (b): the number of rectangles is non-increasing as the merge distance grows. -/
def Obligations.MergingIsMonotonic : Prop :=
  ∀ (w h d d' : Nat) (m : Raster Bool), d ≤ d' → (rects w h d' m).length ≤ (rects w h d m).length

/-- 45_downstream_contract.md R115: the chunks of a payload joined give the payload; for `c > 0` they are `ceil(L / c)` writes of at
most `c` bytes, for `c = 0` exactly one. -/
def Obligations.ChunkingFidelity : Prop :=
  ∀ (c : Nat) (bytes : List Byte), (chunks c bytes).flatten = bytes ∧ (c = 0 → chunks c bytes = [bytes]) ∧
    (0 < c → (chunks c bytes).length = (bytes.length + c - 1) / c ∧ ∀ piece ∈ chunks c bytes, piece.length ≤ c)

/-- 45_downstream_contract.md R113, R114: the payload of a rectangle on the panel has two bytes a pixel, and byte `2k` and `2k + 1`
are the high and low byte of the pixel in column `x1 + k / n`, row `y1 + k % n` for `n` rows: column-major, big-endian. -/
def Obligations.PayloadIsColumnMajorBigEndian : Prop :=
  ∀ (w h : Nat) (cf : Raster Packed) (q : Rect), cf.wf w h = true → q.onPanel w h = true →
    (payload cf q).length = 2 * (q.x2 - q.x1 + 1) * (q.y2 - q.y1 + 1) ∧
    ∀ k : Nat, k < (q.x2 - q.x1 + 1) * (q.y2 - q.y1 + 1) → ∃ v : Packed,
      cf.get? (q.x1 + k / (q.y2 - q.y1 + 1)) (q.y1 + k % (q.y2 - q.y1 + 1)) = some v ∧
      (payload cf q)[2 * k]? = some (v.extractLsb' 8 8) ∧ (payload cf q)[2 * k + 1]? = some (v.extractLsb' 0 8)

/-- 42_cache_control.md R91: a failed transmission is the absence of `COMMIT`: the cache is not advanced, and a retry against the
same buffer finds the same mask and the same rectangles. -/
def Obligations.FailedUpdateKeepsTheCache : Prop :=
  ∀ (s : State) (d : Nat), ∃ u t u', convertCompare s = .next u ∧ update false s = .next t ∧ t.pf = s.pf ∧
    convertCompare t = .next u' ∧ u'.dm = u.dm ∧ rectList d u' = rectList d u

/-- 42_cache_control.md R92: after a failed transmission that left each covered pixel of the panel at its old or its new value and
every other pixel alone, sending the same rectangles of the same frame brings the panel to the frame. -/
def Obligations.SameFrameRetryRepairsThePanel : Prop :=
  ∀ (s u : State) (d : Nat) (panel broken cf : Raster Packed), s.Shaped → s.Synced panel → convertCompare s = .next u →
    u.cf = some cf → broken.wf s.w s.h = true →
    (∀ x y : Nat, covered (rectList d u) x y = true → broken.get? x y = panel.get? x y ∨ broken.get? x y = cf.get? x y) →
    (∀ x y : Nat, covered (rectList d u) x y = false → broken.get? x y = panel.get? x y) →
    paint broken cf (rectList d u) = cf

/-- 45_downstream_contract.md R106, 41_frame_comparator.md R85: a second update with no write to PB in between sends nothing, for
every merge distance. -/
def Obligations.SecondUpdateSendsNothing : Prop :=
  ∀ (s : State) (d : Nat), s.Shaped → ∃ t u, update true s = .next t ∧ convertCompare t = .next u ∧ rectList d u = []

/-- HEADLINE (42_cache_control.md R90, 45_downstream_contract.md R121, 70_reset_and_hazards.md R149, R160): start with a cache that
mirrors the panel, or with an absent cache and any panel content. After an update whose rectangles were all delivered the panel
shows the conversion of the Pixel Buffer, and the cache mirrors the panel. What a delivered rectangle does to the panel is the
model's `paint` (log 14). -/
def Obligations.UpdateBringsThePanelToTheBuffer : Prop :=
  ∀ (s : State) (d : Nat) (panel : Raster Packed), s.Shaped → panel.wf s.w s.h = true → (s.pf = none ∨ s.Synced panel) →
    ∃ u t, convertCompare s = .next u ∧ finish true u = .next t ∧
      paint panel (convertFrame s.pb) (rectList d u) = convertFrame s.pb ∧
      t.Synced (paint panel (convertFrame s.pb) (rectList d u)) ∧ t.Fresh

/-! ### The host's procedure (outside the block): what it reads, what it sends, how it ends -/

/-- 45_downstream_contract.md R115: every command is one byte in the command phase, then data bytes in the data phase; a chunk size of
0 writes the data at once, a size `c > 0` in `ceil(L / c)` writes of at most `c` bytes that joined give the data. -/
def Obligations.CommandAndDataPhases : Prop :=
  ∀ (o : HostOptions) (command : WindowCommand), ∃ (byte : Byte) (writes : List (List Byte)),
    commandCalls o command = [.selectCommandMode, .writeBytes [byte], .selectDataMode] ++ writes.map .writeBytes ∧
    writes.flatten = command.data ∧ (o.chunkSize = 0 → writes = [command.data]) ∧
    (0 < o.chunkSize → writes.length = (command.data.length + o.chunkSize - 1) / o.chunkSize ∧
      ∀ piece ∈ writes, piece.length ≤ o.chunkSize)

/-- 45_downstream_contract.md R104 (with R105, R106, R108): after `CONVERT; COMPARE` the host reads STATUS by `STR` and, only if `FULL`
is 0 and `ANY` is 1, the mask by `DMR`; what it gets is the rectangle list of the mask, and the block is left with only the response
changed. -/
def Obligations.HostReadsTheRectangles : Prop :=
  ∀ (d : Nat) (h : Session) (u : State), h.block.Shaped → convertCompare h.block = .next u →
    ∃ (r : Option Response) (reads : List Operation),
      readRects d { h with block := u } =
        .done (rectList d u) (Session.afterReads { h with block := u } r (.port .str :: reads)) ∧
      (∀ op ∈ reads, ∃ x y, op = .port (.dmr x y)) ∧ (u.full = true ∨ u.any = false → reads = [])

/-- 45_downstream_contract.md R104, R114: the payload that the host gets of a rectangle on the panel by `CFR`, one read a pixel, is the
frame's payload, and the block is left with only the response changed. -/
def Obligations.HostReadsThePixels : Prop :=
  ∀ (q : Rect) (h : Session) (cf : Raster Packed), h.block.Shaped → h.block.cf = some cf →
    q.onPanel h.block.w h.block.h = true → ∃ (r : Option Response) (reads : List Operation),
      readPayload q h = .done (payload cf q) (h.afterReads r reads) ∧
      reads.length = (q.x2 - q.x1 + 1) * (q.y2 - q.y1 + 1) ∧ ∀ op ∈ reads, ∃ x y, op = .port (.cfr x y)

/-- 45_downstream_contract.md R121, R120: `UPDATE` issues `CONVERT`, `COMPARE`, `STR`, reads of the mask and of the frame only, and sends
one windowed write per rectangle, in order. If the transport carries out every call, it ends with success after `COMMIT`; if the
transport fails after `k` calls, it ends with `TransportError` after these `k`, without `COMMIT` and with PF as it was. -/
def Obligations.UpdateFollowsTheProcedure : Prop :=
  ∀ (o : HostOptions) (h : Session), h.block.Shaped → ∃ (u : State) (cf : Raster Packed) (calls : List BusCall),
    convertCompare h.block = .next u ∧ u.cf = some cf ∧ calls = updateCalls o cf (rectList o.mergeDistance u) ∧
    ((∀ k, h.failAfter = some k → calls.length ≤ k) → ∃ (h' : Session) (reads : List Operation),
      hostUpdate o h = .done () h' ∧ finish true u = .next h'.block ∧ h'.bus = h.bus ++ calls ∧
      h'.issued = h.issued ++ ([.command (encode .convert), .command (encode .compare), .port .str] ++ reads ++
        [.command (encode .commit)]) ∧
      ∀ op ∈ reads, ∃ x y, op = .port (.dmr x y) ∨ op = .port (.cfr x y)) ∧
    ∀ k, h.failAfter = some k → k < calls.length → ∃ (h' : Session) (reads : List Operation),
      hostUpdate o h = .transportError h' ∧ h'.block = { u with response := h'.block.response } ∧ h'.block.pf = h.block.pf ∧
      h'.bus = h.bus ++ calls.take k ∧
      h'.issued = h.issued ++ ([.command (encode .convert), .command (encode .compare), .port .str] ++ reads) ∧
      ∀ op ∈ reads, ∃ x y, op = .port (.dmr x y) ∨ op = .port (.cfr x y)

/-- The procedure is a run of the block (20_memory.md R50, R51): however an update ends, presenting the operations it issued as the next
requests of the host's sequence and taking as many steps leaves the block as the procedure left it. -/
def Obligations.UpdateIsARunOfTheBlock : Prop :=
  ∀ (o : HostOptions) (h h' : Session), (hostUpdate o h = .done () h' ∨ hostUpdate o h = .transportError h') →
    ∃ ops : List Operation, h'.issued = h.issued ++ ops ∧ ∀ rest : List Request,
      core.run ops.length { h.block with pending := ops.map .operation ++ rest } = .next { h'.block with pending := rest }

/-- 45_downstream_contract.md R106, R120: after an update that ended with success, a second one with no write to PB in between ends with
success and makes no transport call, whatever its options and even on a transport that carries out nothing. -/
def Obligations.SecondUpdateMakesNoBusTraffic : Prop :=
  ∀ (o o' : HostOptions) (h h' : Session), h.block.Shaped → hostUpdate o h = .done () h' →
    ∃ h'' : Session, hostUpdate o' h' = .done () h'' ∧ h''.bus = h'.bus ∧ h''.block.pf = h'.block.pf

/-- 30_encoding.md R65, 43_pixel_buffer_fill.md R98: on a transport that never fails `CLEAR` ends with success, every pixel of PB the
colour and every element of PF its conversion; `REPAINT` ends with success, having sent the one rectangle of the whole panel. -/
def Obligations.ClearAndRepaintComplete : Prop :=
  ∀ (o : HostOptions) (h : Session), h.block.Shaped → h.failAfter = none →
    (∀ r g b : Byte, ∃ h' : Session, hostClear o r g b h = .done () h' ∧ ∀ x y : Nat, x < h.block.w → y < h.block.h →
      h'.block.pb.get? x y = some ⟨r, g, b⟩ ∧ h'.block.pfAt x y = some (pack565 ⟨r, g, b⟩)) ∧
    ∃ h' : Session, hostRepaint o h = .done () h' ∧ h'.block.pf = some (convertFrame h.block.pb) ∧
      h'.bus = h.bus ++ rectCalls o (convertFrame h.block.pb) ⟨0, 0, h.block.w - 1, h.block.h - 1⟩
end

