-- ==== Sys2Proof/Laws/Decode.lean ====
section
/-! SUPPORT. The fields of a command word as numbers, and what the decoder answers by the opcode. -/

namespace Sys2Proof

variable (op a b c : Byte) (w : Word)

theorem opField_toNat : (opField w).toNat = w.toNat / 2 ^ 24 := by
  have := w.isLt
  simp only [opField, BitVec.extractLsb'_toNat, Nat.shiftRight_eq_div_pow]
  omega

theorem fieldA_toNat : (fieldA w).toNat = w.toNat / 2 ^ 16 % 256 := by
  simp [fieldA, BitVec.extractLsb'_toNat, Nat.shiftRight_eq_div_pow]

theorem fieldB_toNat : (fieldB w).toNat = w.toNat / 2 ^ 8 % 256 := by
  simp [fieldB, BitVec.extractLsb'_toNat, Nat.shiftRight_eq_div_pow]

theorem fieldC_toNat : (fieldC w).toNat = w.toNat % 256 := by
  simp [fieldC, BitVec.extractLsb'_toNat]

theorem immField_toNat : (immField w).toNat = w.toNat % 2 ^ 24 := by
  simp [immField, BitVec.extractLsb'_toNat]

theorem commandWord_toNat :
    (commandWord op a b c).toNat = op.toNat * 2 ^ 24 + a.toNat * 2 ^ 16 + b.toNat * 2 ^ 8 + c.toNat := by
  have ha := a.isLt
  have hb := b.isLt
  have hc := c.isLt
  have hw : (commandWord op a b c).toNat = ((op.toNat <<< 8 ||| a.toNat) <<< 8 ||| b.toNat) <<< 8 ||| c.toNat := by
    simp only [commandWord, BitVec.toNat_append]
  rw [hw, ← Nat.shiftLeft_add_eq_or_of_lt ha, ← Nat.shiftLeft_add_eq_or_of_lt hb, ← Nat.shiftLeft_add_eq_or_of_lt hc]
  simp only [Nat.shiftLeft_eq]
  omega

@[simp] theorem opField_commandWord : opField (commandWord op a b c) = op := by
  apply BitVec.eq_of_toNat_eq
  rw [opField_toNat, commandWord_toNat]
  omega

@[simp] theorem fieldA_commandWord : fieldA (commandWord op a b c) = a := by
  apply BitVec.eq_of_toNat_eq
  rw [fieldA_toNat, commandWord_toNat]
  omega

@[simp] theorem fieldB_commandWord : fieldB (commandWord op a b c) = b := by
  apply BitVec.eq_of_toNat_eq
  rw [fieldB_toNat, commandWord_toNat]
  omega

@[simp] theorem fieldC_commandWord : fieldC (commandWord op a b c) = c := by
  apply BitVec.eq_of_toNat_eq
  rw [fieldC_toNat, commandWord_toNat]
  omega

/-- A word is its four fields. -/
theorem commandWord_fields : commandWord (opField w) (fieldA w) (fieldB w) (fieldC w) = w := by
  apply BitVec.eq_of_toNat_eq
  rw [commandWord_toNat, opField_toNat, fieldA_toNat, fieldB_toNat, fieldC_toNat]
  omega

/-- Everything the decoder can answer with an instruction. -/
theorem decode_ok {i : Instr} (hd : decode w = .ok i) :
    (opField w = 1 ∧ immField w = 0 ∧ i = .convert) ∨ (opField w = 2 ∧ immField w = 0 ∧ i = .compare) ∨
      (opField w = 3 ∧ immField w = 0 ∧ i = .commit) ∨ (opField w = 4 ∧ immField w = 0 ∧ i = .invalidate) ∨
      (opField w = 5 ∧ i = .fill (fieldA w) (fieldB w) (fieldC w)) := by
  simp only [decode, withoutOperand] at hd
  split_ifs at hd <;> cases hd <;> simp_all

end Sys2Proof
end

