-- ==== Sys2Proof/Laws/Raster.lean ====
section
/-! SUPPORT. The small lemmas of the stores' operations: what an element reads as after each, and that each keeps the one shape of a
store. -/

namespace Sys2Proof.Machine

variable {α β γ : Type} {w h x y x' y' : Nat}

theorem Raster.wf_iff (r : Raster α) : r.wf w h = true ↔ r.length = h ∧ ∀ row ∈ r, row.length = w := by
  simp [Raster.wf]

theorem Raster.get?_eq_some_iff (r : Raster α) (v : α) :
    r.get? x y = some v ↔ ∃ row, r[y]? = some row ∧ row[x]? = some v := by
  simp [Raster.get?, Option.bind_eq_some_iff]

@[simp] theorem Raster.get?_map (f : α → β) (r : Raster α) : (r.map f).get? x y = (r.get? x y).map f := by
  simp only [Raster.get?, Raster.map, List.getElem?_map]
  cases r[y]? <;> simp

theorem Raster.get?_zip (f : α → β → γ) (a : Raster α) (b : Raster β) :
    (Raster.zip f a b).get? x y = (a.get? x y).bind fun u => (b.get? x y).map (f u) := by
  simp only [Raster.get?, Raster.zip, List.getElem?_zipWith]
  cases a[y]? <;> cases b[y]? <;> simp [List.getElem?_zipWith]
  next ra rb => cases ra[x]? <;> cases rb[x]? <;> simp

theorem Raster.get?_const (v : α) : (Raster.const w h v).get? x y = if x < w ∧ y < h then some v else none := by
  by_cases hy : y < h <;> by_cases hx : x < w <;> simp [Raster.get?, Raster.const, hx, hy]

theorem Raster.get?_ofFn (f : Nat → Nat → α) :
    (Raster.ofFn w h f).get? x y = if x < w ∧ y < h then some (f y x) else none := by
  by_cases hy : y < h <;> by_cases hx : x < w <;> simp [Raster.get?, Raster.ofFn, hx, hy]

theorem Raster.get?_set_self (r : Raster α) (v : α) : (r.set x y v).get? x y = (r.get? x y).map fun _ => v := by
  simp only [Raster.get?, Raster.set, List.getElem?_modify]
  cases r[y]? <;> simp [List.getElem?_set]
  next row => by_cases hx : x < row.length <;> simp [hx]

theorem Raster.get?_set_other (r : Raster α) (v : α) (hne : ¬(x' = x ∧ y' = y)) :
    (r.set x y v).get? x' y' = r.get? x' y' := by
  simp only [Raster.get?, Raster.set, List.getElem?_modify]
  by_cases hy : y = y'
  · subst hy
    cases r[y]? <;> simp [List.getElem?_set]
    intro hx
    exact absurd ⟨hx.symm, rfl⟩ hne
  · cases r[y']? <;> simp [hy]

/-- A store of the panel's shape has an element exactly at the coordinates inside the panel. -/
theorem Raster.get?_isSome_iff {r : Raster α} (hr : r.wf w h = true) : (r.get? x y).isSome = true ↔ x < w ∧ y < h := by
  rw [Raster.wf_iff] at hr
  obtain ⟨hlen, hrow⟩ := hr
  by_cases hy : y < r.length
  · have hw := hrow r[y] (List.getElem_mem hy)
    simp [Raster.get?, ← hlen, hy, ← hw]
  · simp [Raster.get?, ← hlen, hy]

theorem Raster.exists_get? {r : Raster α} (hr : r.wf w h = true) (hx : x < w) (hy : y < h) : ∃ v, r.get? x y = some v :=
  Option.isSome_iff_exists.mp ((Raster.get?_isSome_iff hr).mpr ⟨hx, hy⟩)

/-- Two stores of one shape that read alike everywhere on the panel are equal data. -/
theorem Raster.ext_of_wf {a b : Raster α} (ha : a.wf w h = true) (hb : b.wf w h = true)
    (heq : ∀ x y, x < w → y < h → a.get? x y = b.get? x y) : a = b := by
  obtain ⟨la, ra⟩ := (Raster.wf_iff a).mp ha
  obtain ⟨lb, rb⟩ := (Raster.wf_iff b).mp hb
  refine List.ext_getElem (la.trans lb.symm) fun y hya hyb => ?_
  have wa := ra a[y] (List.getElem_mem hya)
  have wb := rb b[y] (List.getElem_mem hyb)
  refine List.ext_getElem (wa.trans wb.symm) fun x hxa hxb => ?_
  have := heq x y (by omega) (by omega)
  simpa [Raster.get?, List.getElem?_eq_getElem hya, List.getElem?_eq_getElem hyb, List.getElem?_eq_getElem hxa,
    List.getElem?_eq_getElem hxb] using this

theorem Raster.wf_const (v : α) : (Raster.const w h v).wf w h = true := by
  rw [Raster.wf_iff]
  refine ⟨by simp [Raster.const], fun row hrow => ?_⟩
  simp [List.eq_of_mem_replicate hrow]

theorem Raster.wf_ofFn (f : Nat → Nat → α) : (Raster.ofFn w h f).wf w h = true := by
  rw [Raster.wf_iff]
  refine ⟨by simp [Raster.ofFn], fun row hrow => ?_⟩
  obtain ⟨y, _, rfl⟩ := List.mem_map.mp hrow
  simp

theorem Raster.wf_map (f : α → β) {r : Raster α} (hr : r.wf w h = true) : (r.map f).wf w h = true := by
  rw [Raster.wf_iff] at hr ⊢
  refine ⟨by simpa [Raster.map] using hr.1, fun row hrow => ?_⟩
  obtain ⟨row', hmem, rfl⟩ := List.mem_map.mp hrow
  simpa using hr.2 row' hmem

theorem Raster.wf_zip (f : α → β → γ) {a : Raster α} {b : Raster β} (ha : a.wf w h = true) (hb : b.wf w h = true) :
    (Raster.zip f a b).wf w h = true := by
  rw [Raster.wf_iff] at ha hb ⊢
  refine ⟨by simp [Raster.zip, ha.1, hb.1], fun row hrow => ?_⟩
  obtain ⟨i, hi, rfl⟩ := List.mem_iff_getElem.mp hrow
  simp only [Raster.zip, List.length_zipWith] at hi
  simp [Raster.zip, ha.2 a[i] (List.getElem_mem (by omega)), hb.2 b[i] (List.getElem_mem (by omega))]

theorem Raster.wf_set {r : Raster α} (v : α) (hr : r.wf w h = true) : (r.set x y v).wf w h = true := by
  rw [Raster.wf_iff] at hr ⊢
  refine ⟨by simpa [Raster.set] using hr.1, fun row hrow => ?_⟩
  obtain ⟨i, hi, rfl⟩ := List.mem_iff_getElem.mp hrow
  simp only [Raster.set, List.length_modify] at hi
  simp only [Raster.set, List.getElem_modify]
  split <;> simp [hr.2 r[i] (List.getElem_mem hi)]

/-- A bulk load's raster has the declared shape. -/
theorem rasterOfData_wf {h w n w' h' : Nat} (hn : n = 3) (hw : w = w') (hh : h = h')
    (data : Vector (Vector (Vector Byte n) w) h) : (rasterOfData hn data).wf w' h' = true := by
  subst hw hh
  rw [Raster.wf_iff]
  refine ⟨by simp [rasterOfData], fun row hrow => ?_⟩
  obtain ⟨d, _, rfl⟩ := List.mem_map.mp hrow
  simp

/-- The OR over all elements says that some coordinate reads true. -/
theorem Raster.anyTrue_iff (m : Raster Bool) : m.anyTrue = true ↔ ∃ x y, m.get? x y = some true := by
  simp only [Raster.anyTrue, List.any_eq_true, id, List.mem_iff_getElem?, Raster.get?_eq_some_iff]
  constructor
  · rintro ⟨row, ⟨y, hy⟩, b, ⟨x, hx⟩, rfl⟩
    exact ⟨x, y, row, hy, hx⟩
  · rintro ⟨x, y, row, hy, hx⟩
    exact ⟨row, ⟨y, hy⟩, true, ⟨x, hx⟩, rfl⟩

end Sys2Proof.Machine
end

