-- ==== Sys2Proof/Laws/State.lean ====
section
/-! SUPPORT. What each update of the state leaves of each field: one lemma a field, so that no proof unfolds a record. -/

namespace Sys2Proof.Machine

variable (s : State) (r : Response) (m : Raster Bool) (f a : Bool) (k : Cause) (q : Request)
variable (pb : Raster Pixel) (c : Raster Packed) (p : Option (Raster Packed)) (rest : List Request)

@[simp] theorem respond_w : (s.respond r).w = s.w := rfl
@[simp] theorem respond_h : (s.respond r).h = s.h := rfl
@[simp] theorem respond_pb : (s.respond r).pb = s.pb := rfl
@[simp] theorem respond_cf : (s.respond r).cf = s.cf := rfl
@[simp] theorem respond_pf : (s.respond r).pf = s.pf := rfl
@[simp] theorem respond_dm : (s.respond r).dm = s.dm := rfl
@[simp] theorem respond_full : (s.respond r).full = s.full := rfl
@[simp] theorem respond_any : (s.respond r).any = s.any := rfl
@[simp] theorem respond_err : (s.respond r).err = s.err := rfl
@[simp] theorem respond_pending : (s.respond r).pending = s.pending := rfl
@[simp] theorem respond_response : (s.respond r).response = some r := rfl
@[simp] theorem respond_draws : (s.respond r).draws = s.draws := rfl

@[simp] theorem setBuffer_w : (s.setBuffer pb).w = s.w := rfl
@[simp] theorem setBuffer_h : (s.setBuffer pb).h = s.h := rfl
@[simp] theorem setBuffer_pb : (s.setBuffer pb).pb = pb := rfl
@[simp] theorem setBuffer_cf : (s.setBuffer pb).cf = s.cf := rfl
@[simp] theorem setBuffer_pf : (s.setBuffer pb).pf = s.pf := rfl
@[simp] theorem setBuffer_dm : (s.setBuffer pb).dm = s.dm := rfl
@[simp] theorem setBuffer_full : (s.setBuffer pb).full = s.full := rfl
@[simp] theorem setBuffer_any : (s.setBuffer pb).any = s.any := rfl
@[simp] theorem setBuffer_err : (s.setBuffer pb).err = s.err := rfl
@[simp] theorem setBuffer_pending : (s.setBuffer pb).pending = s.pending := rfl
@[simp] theorem setBuffer_response : (s.setBuffer pb).response = s.response := rfl
@[simp] theorem setBuffer_draws : (s.setBuffer pb).draws = s.draws := rfl

@[simp] theorem setFrame_w : (s.setFrame c).w = s.w := rfl
@[simp] theorem setFrame_h : (s.setFrame c).h = s.h := rfl
@[simp] theorem setFrame_pb : (s.setFrame c).pb = s.pb := rfl
@[simp] theorem setFrame_cf : (s.setFrame c).cf = some c := rfl
@[simp] theorem setFrame_pf : (s.setFrame c).pf = s.pf := rfl
@[simp] theorem setFrame_dm : (s.setFrame c).dm = s.dm := rfl
@[simp] theorem setFrame_full : (s.setFrame c).full = s.full := rfl
@[simp] theorem setFrame_any : (s.setFrame c).any = s.any := rfl
@[simp] theorem setFrame_err : (s.setFrame c).err = s.err := rfl
@[simp] theorem setFrame_pending : (s.setFrame c).pending = s.pending := rfl
@[simp] theorem setFrame_response : (s.setFrame c).response = s.response := rfl
@[simp] theorem setFrame_draws : (s.setFrame c).draws = s.draws := rfl

@[simp] theorem setCache_w : (s.setCache p).w = s.w := rfl
@[simp] theorem setCache_h : (s.setCache p).h = s.h := rfl
@[simp] theorem setCache_pb : (s.setCache p).pb = s.pb := rfl
@[simp] theorem setCache_cf : (s.setCache p).cf = s.cf := rfl
@[simp] theorem setCache_pf : (s.setCache p).pf = p := rfl
@[simp] theorem setCache_dm : (s.setCache p).dm = s.dm := rfl
@[simp] theorem setCache_full : (s.setCache p).full = s.full := rfl
@[simp] theorem setCache_any : (s.setCache p).any = s.any := rfl
@[simp] theorem setCache_err : (s.setCache p).err = s.err := rfl
@[simp] theorem setCache_pending : (s.setCache p).pending = s.pending := rfl
@[simp] theorem setCache_response : (s.setCache p).response = s.response := rfl
@[simp] theorem setCache_draws : (s.setCache p).draws = s.draws := rfl

@[simp] theorem setPending_w : (s.setPending rest).w = s.w := rfl
@[simp] theorem setPending_h : (s.setPending rest).h = s.h := rfl
@[simp] theorem setPending_pb : (s.setPending rest).pb = s.pb := rfl
@[simp] theorem setPending_cf : (s.setPending rest).cf = s.cf := rfl
@[simp] theorem setPending_pf : (s.setPending rest).pf = s.pf := rfl
@[simp] theorem setPending_dm : (s.setPending rest).dm = s.dm := rfl
@[simp] theorem setPending_full : (s.setPending rest).full = s.full := rfl
@[simp] theorem setPending_any : (s.setPending rest).any = s.any := rfl
@[simp] theorem setPending_err : (s.setPending rest).err = s.err := rfl
@[simp] theorem setPending_pending : (s.setPending rest).pending = rest := rfl
@[simp] theorem setPending_response : (s.setPending rest).response = s.response := rfl
@[simp] theorem setPending_draws : (s.setPending rest).draws = s.draws := rfl

@[simp] theorem dropMask_w : s.dropMask.w = s.w := rfl
@[simp] theorem dropMask_h : s.dropMask.h = s.h := rfl
@[simp] theorem dropMask_pb : s.dropMask.pb = s.pb := rfl
@[simp] theorem dropMask_cf : s.dropMask.cf = s.cf := rfl
@[simp] theorem dropMask_pf : s.dropMask.pf = s.pf := rfl
@[simp] theorem dropMask_dm : s.dropMask.dm = none := rfl
@[simp] theorem dropMask_full : s.dropMask.full = false := rfl
@[simp] theorem dropMask_any : s.dropMask.any = false := rfl
@[simp] theorem dropMask_err : s.dropMask.err = s.err := rfl
@[simp] theorem dropMask_pending : s.dropMask.pending = s.pending := rfl
@[simp] theorem dropMask_response : s.dropMask.response = s.response := rfl
@[simp] theorem dropMask_draws : s.dropMask.draws = s.draws := rfl

@[simp] theorem setMask_w : (s.setMask m f a).w = s.w := rfl
@[simp] theorem setMask_h : (s.setMask m f a).h = s.h := rfl
@[simp] theorem setMask_pb : (s.setMask m f a).pb = s.pb := rfl
@[simp] theorem setMask_cf : (s.setMask m f a).cf = s.cf := rfl
@[simp] theorem setMask_pf : (s.setMask m f a).pf = s.pf := rfl
@[simp] theorem setMask_dm : (s.setMask m f a).dm = some m := rfl
@[simp] theorem setMask_full : (s.setMask m f a).full = f := rfl
@[simp] theorem setMask_any : (s.setMask m f a).any = a := rfl
@[simp] theorem setMask_err : (s.setMask m f a).err = s.err := rfl
@[simp] theorem setMask_pending : (s.setMask m f a).pending = s.pending := rfl
@[simp] theorem setMask_response : (s.setMask m f a).response = s.response := rfl
@[simp] theorem setMask_draws : (s.setMask m f a).draws = s.draws := rfl

/-- Recording an error writes ERR and nothing else, and ERR only where it was 0. -/
theorem recordError_eq : s.recordError k = { s with err := some (s.err.getD k) } := by
  cases s with
  | mk w h pb cf pf dm full any err pending response draws => cases err <;> rfl

@[simp] theorem recordError_w : (s.recordError k).w = s.w := by rw [recordError_eq]
@[simp] theorem recordError_h : (s.recordError k).h = s.h := by rw [recordError_eq]
@[simp] theorem recordError_pb : (s.recordError k).pb = s.pb := by rw [recordError_eq]
@[simp] theorem recordError_cf : (s.recordError k).cf = s.cf := by rw [recordError_eq]
@[simp] theorem recordError_pf : (s.recordError k).pf = s.pf := by rw [recordError_eq]
@[simp] theorem recordError_dm : (s.recordError k).dm = s.dm := by rw [recordError_eq]
@[simp] theorem recordError_full : (s.recordError k).full = s.full := by rw [recordError_eq]
@[simp] theorem recordError_any : (s.recordError k).any = s.any := by rw [recordError_eq]
@[simp] theorem recordError_err : (s.recordError k).err = some (s.err.getD k) := by rw [recordError_eq]
@[simp] theorem recordError_pending : (s.recordError k).pending = s.pending := by rw [recordError_eq]
@[simp] theorem recordError_response : (s.recordError k).response = s.response := by rw [recordError_eq]
@[simp] theorem recordError_draws : (s.recordError k).draws = s.draws := by rw [recordError_eq]

@[simp] theorem applyRst_w : s.applyRst.w = s.w := rfl
@[simp] theorem applyRst_h : s.applyRst.h = s.h := rfl
@[simp] theorem applyRst_pb : s.applyRst.pb = s.pb := rfl
@[simp] theorem applyRst_cf : s.applyRst.cf = none := rfl
@[simp] theorem applyRst_pf : s.applyRst.pf = none := rfl
@[simp] theorem applyRst_dm : s.applyRst.dm = none := rfl
@[simp] theorem applyRst_full : s.applyRst.full = false := rfl
@[simp] theorem applyRst_any : s.applyRst.any = false := rfl
@[simp] theorem applyRst_err : s.applyRst.err = none := rfl
@[simp] theorem applyRst_pending : s.applyRst.pending = s.pending := rfl
@[simp] theorem applyRst_response : s.applyRst.response = none := rfl
@[simp] theorem applyRst_draws : s.applyRst.draws = s.draws := rfl

@[simp] theorem freePb_w : s.freePb.w = s.w := rfl
@[simp] theorem freePb_h : s.freePb.h = s.h := rfl
@[simp] theorem freePb_pb : s.freePb.pb = Raster.ofFn s.w s.h (Config.abandonedPixel s.draws) := rfl
@[simp] theorem freePb_cf : s.freePb.cf = s.cf := rfl
@[simp] theorem freePb_pf : s.freePb.pf = s.pf := rfl
@[simp] theorem freePb_dm : s.freePb.dm = s.dm := rfl
@[simp] theorem freePb_full : s.freePb.full = s.full := rfl
@[simp] theorem freePb_any : s.freePb.any = s.any := rfl
@[simp] theorem freePb_err : s.freePb.err = s.err := rfl
@[simp] theorem freePb_pending : s.freePb.pending = s.pending := rfl
@[simp] theorem freePb_response : s.freePb.response = s.response := rfl
@[simp] theorem freePb_draws : s.freePb.draws = s.draws + 1 := rfl

@[simp] theorem present_w : (s.present q).w = s.w := rfl
@[simp] theorem present_h : (s.present q).h = s.h := rfl
@[simp] theorem present_pb : (s.present q).pb = s.pb := rfl
@[simp] theorem present_cf : (s.present q).cf = s.cf := rfl
@[simp] theorem present_pf : (s.present q).pf = s.pf := rfl
@[simp] theorem present_dm : (s.present q).dm = s.dm := rfl
@[simp] theorem present_full : (s.present q).full = s.full := rfl
@[simp] theorem present_any : (s.present q).any = s.any := rfl
@[simp] theorem present_err : (s.present q).err = s.err := rfl
@[simp] theorem present_pending : (s.present q).pending = q :: s.pending := rfl
@[simp] theorem present_response : (s.present q).response = s.response := rfl
@[simp] theorem present_draws : (s.present q).draws = s.draws := rfl

end Sys2Proof.Machine
end

