-- ==== Sys2Proof/Laws/Ops.lean ====
section
/-! SUPPORT. What each shared operation can do, and what each meaning answers: the provers cite these and unfold nothing. -/

namespace Sys2Proof.Machine

variable {α : Type} {s t : State}

theorem complete_eq : complete s = .next (s.respond .ok) := rfl

theorem answer_eq (v : Word) : answer v s = .next (s.respond (.data v)) := rfl

theorem raise_eq (k : Cause) : raise k s = .next ((s.recordError k).respond (.err k)) := rfl

@[simp] theorem andThen_next (f : State → Result) : andThen (.next s) f = f s := rfl

theorem outside_iff (x y : Coord) : s.outside x y = true ↔ s.w ≤ x.toNat ∨ s.h ≤ y.toNat := by simp [State.outside]

theorem inside_iff (x y : Coord) : s.outside x y = false ↔ x.toNat < s.w ∧ y.toNat < s.h := by simp [State.outside]

@[simp] theorem outside_respond (r : Response) (x y : Coord) : (s.respond r).outside x y = s.outside x y := rfl
@[simp] theorem outside_setBuffer (pb : Raster Pixel) (x y : Coord) : (s.setBuffer pb).outside x y = s.outside x y := rfl
@[simp] theorem outside_recordError (k : Cause) (x y : Coord) : (s.recordError k).outside x y = s.outside x y := by
  rw [recordError_eq]
  rfl

theorem readElement_next {store : Raster α} {x y : Coord} {data : α → Word} (hread : readElement store x y data s = .next t) :
    ∃ v, store.get? x.toNat y.toNat = some v ∧ t = s.respond (.data (data v)) := by
  unfold readElement at hread
  split at hread
  · next v hv => exact ⟨v, hv, by simpa [answer] using hread.symm⟩
  · cases hread

/-- A read of a store that may hold no value refuses with `E_RANGE` off the panel, with `E_INVALID` without a value, and else answers
the element. -/
theorem readOptional_next {store : Option (Raster α)} {x y : Coord} {data : α → Word}
    (hread : readOptional store x y data s = .next t) :
    (s.outside x y = true ∧ raise .range s = .next t) ∨ (s.outside x y = false ∧ store = none ∧ raise .invalid s = .next t) ∨
      ∃ r v, s.outside x y = false ∧ store = some r ∧ r.get? x.toNat y.toNat = some v ∧ t = s.respond (.data (data v)) := by
  unfold readOptional at hread
  split at hread
  · next ho => exact .inl ⟨ho, hread⟩
  · next ho =>
    have ho := Bool.eq_false_iff.mpr ho
    cases store with
    | none => exact .inr (.inl ⟨ho, rfl, hread⟩)
    | some r =>
      obtain ⟨v, hv, ht⟩ := readElement_next hread
      exact .inr (.inr ⟨r, v, ho, rfl, hv, ht⟩)

/-- A read answers wherever the store has the element. -/
theorem readElement_of_get? {store : Raster α} {x y : Coord} {v : α} (data : α → Word)
    (hv : store.get? x.toNat y.toNat = some v) : readElement store x y data s = .next (s.respond (.data (data v))) := by
  simp [readElement, hv, answer]

theorem readOptional_outside {store : Option (Raster α)} {x y : Coord} (data : α → Word) (ho : s.outside x y = true) :
    readOptional store x y data s = raise .range s := by
  simp [readOptional, ho]

theorem readOptional_noValue {x y : Coord} (data : α → Word) (ho : s.outside x y = false) :
    readOptional none x y data s = raise .invalid s := by
  simp [readOptional, ho]

theorem readOptional_value {r : Raster α} {x y : Coord} {v : α} (data : α → Word) (ho : s.outside x y = false)
    (hv : r.get? x.toNat y.toNat = some v) : readOptional (some r) x y data s = .next (s.respond (.data (data v))) := by
  simp [readOptional, ho, readElement_of_get? data hv]

theorem execPbw_outside {x y : Coord} (r g b : Byte) (ho : s.outside x y = true) : execPbw x y r g b s = raise .range s := by
  simp [execPbw, ho]

theorem execPbw_inside {x y : Coord} (r g b : Byte) (ho : s.outside x y = false) :
    execPbw x y r g b s = complete (s.setBuffer (s.pb.set x.toNat y.toNat ⟨r, g, b⟩)) := by
  simp [execPbw, ho]

theorem execPbr_outside {x y : Coord} (ho : s.outside x y = true) : execPbr x y s = raise .range s := by
  simp [execPbr, ho]

theorem execPbr_inside {x y : Coord} (ho : s.outside x y = false) : execPbr x y s = readElement s.pb x y pixelData s := by
  simp [execPbr, ho]

theorem execPbl_shape {h w n : BitVec 17} (data : Vector (Vector (Vector Byte n.toNat) w.toNat) h.toNat)
    (hs : h.toNat = s.h ∧ w.toNat = s.w ∧ n.toNat = 3) :
    execPbl h w n data s = complete (s.setBuffer (rasterOfData hs.2.2 data)) := by
  simp [execPbl, hs]

theorem execPbl_noShape {h w n : BitVec 17} (data : Vector (Vector (Vector Byte n.toNat) w.toNat) h.toNat)
    (hs : ¬(h.toNat = s.h ∧ w.toNat = s.w ∧ n.toNat = 3)) : execPbl h w n data s = raise .shape s := by
  simp [execPbl, hs]

@[simp] theorem exec_convert : exec .convert s = execConvert s := rfl
@[simp] theorem exec_compare : exec .compare s = execCompare s := rfl
@[simp] theorem exec_commit : exec .commit s = execCommit s := rfl
@[simp] theorem exec_invalidate : exec .invalidate s = execInvalidate s := rfl
@[simp] theorem exec_fill (r g b : Byte) : exec (.fill r g b) s = execFill r g b s := rfl

theorem execCompare_noFrame (hcf : s.cf = none) : execCompare s = raise .seq s := by simp [execCompare, hcf]

theorem execCompare_present {cur prev : Raster Packed} (hcf : s.cf = some cur) (hpf : s.pf = some prev) :
    execCompare s = complete (s.setMask (diffFrame cur prev) false (diffFrame cur prev).anyTrue) := by
  simp [execCompare, hcf, hpf]

theorem execCompare_absent {cur : Raster Packed} (hcf : s.cf = some cur) (hpf : s.pf = none) :
    execCompare s = complete (s.setMask (Raster.const s.w s.h true) true true) := by
  simp [execCompare, hcf, hpf]

theorem execCommit_noFrame (hcf : s.cf = none) : execCommit s = raise .seq s := by simp [execCommit, hcf]

theorem execCommit_frame {cur : Raster Packed} (hcf : s.cf = some cur) :
    execCommit s = complete (s.dropMask.setCache (some cur)) := by
  simp [execCommit, hcf]

/-- No command faults or is refused by the model: every one of them gives a next state. -/
theorem exec_next (i : Instr) (s : State) : ∃ t, exec i s = .next t := by
  cases i with
  | convert => exact ⟨_, rfl⟩
  | compare =>
    cases hcf : s.cf with
    | none => exact ⟨_, (execCompare_noFrame hcf).trans (raise_eq _)⟩
    | some cur =>
      cases hpf : s.pf with
      | none => exact ⟨_, (execCompare_absent hcf hpf).trans complete_eq⟩
      | some prev => exact ⟨_, (execCompare_present hcf hpf).trans complete_eq⟩
  | commit =>
    cases hcf : s.cf with
    | none => exact ⟨_, (execCommit_noFrame hcf).trans (raise_eq _)⟩
    | some cur => exact ⟨_, (execCommit_frame hcf).trans complete_eq⟩
  | invalidate => exact ⟨_, rfl⟩
  | fill r g b => exact ⟨_, rfl⟩

theorem execOperation_command (w : Word) {i : Instr} (hd : decode w = .ok i) :
    execOperation (.command w) s = exec i s := by
  simp [execOperation, execCommand, hd]

theorem execOperation_illegal (w : Word) {e : Illegal} (hd : decode w = .error e) :
    execOperation (.command w) s = raise .illegal s := by
  simp [execOperation, execCommand, hd]

theorem step_idle (hp : s.pending = []) : step s = .next s := by simp [step, acceptNext, hp]

theorem step_accept {q : Request} {rest : List Request} (hp : s.pending = q :: rest) :
    step s = accept q (s.setPending rest) := by
  simp [step, acceptNext, hp]

/-- Everything a step can do: wait, or execute the next request whole. -/
theorem step_cases (hs : step s = .next t) :
    (s.pending = [] ∧ t = s) ∨ ∃ q rest, s.pending = q :: rest ∧ accept q (s.setPending rest) = .next t := by
  cases hp : s.pending with
  | nil =>
    rw [step_idle hp] at hs
    cases hs
    exact .inl ⟨rfl, rfl⟩
  | cons q rest =>
    rw [step_accept hp] at hs
    exact .inr ⟨q, rest, rfl, hs⟩

end Sys2Proof.Machine
end

