-- ==== Sys2Proof/Laws/Downstream.lean ====
section
/-! SUPPORT. What the halves of the host's update leave, and the small lemmas of the banding scan. -/

namespace Sys2Proof.Machine

variable {s t : State}

/-- The state `CONVERT` leaves. -/
theorem execConvert_eq : execConvert s = .next ((s.dropMask.setFrame (convertFrame s.pb)).respond .ok) := rfl

/-- `CONVERT; COMPARE` with an absent cache: the mask is all ones. -/
theorem convertCompare_absent (hpf : s.pf = none) :
    convertCompare s =
      .next (((((s.dropMask.setFrame (convertFrame s.pb)).respond .ok).setMask (Raster.const s.w s.h true) true true).respond .ok)) := by
  simp only [convertCompare, exec_convert, execConvert_eq, andThen_next, exec_compare]
  exact execCompare_absent (s := (s.dropMask.setFrame (convertFrame s.pb)).respond .ok) rfl hpf

/-- `CONVERT; COMPARE` with a present cache: the mask is the difference of the converted buffer and the cache. -/
theorem convertCompare_present {prev : Raster Packed} (hpf : s.pf = some prev) :
    convertCompare s =
      .next (((((s.dropMask.setFrame (convertFrame s.pb)).respond .ok).setMask (diffFrame (convertFrame s.pb) prev) false
        (diffFrame (convertFrame s.pb) prev).anyTrue).respond .ok)) := by
  simp only [convertCompare, exec_convert, execConvert_eq, andThen_next, exec_compare]
  exact execCompare_present (s := (s.dropMask.setFrame (convertFrame s.pb)).respond .ok) rfl hpf

theorem finish_true {cur : Raster Packed} (hcf : s.cf = some cur) :
    finish true s = .next ((s.dropMask.setCache (some cur)).respond .ok) := by
  rw [finish, if_pos rfl, exec_commit, execCommit_frame hcf, complete_eq]

theorem finish_false : finish false s = .next s := rfl

theorem mem_dirtyRows {w h y : Nat} {m : Raster Bool} :
    y ∈ dirtyRows w h m ↔ y < h ∧ ∃ x, x < w ∧ m.get? x y = some true := by
  simp [dirtyRows]

theorem mem_dirtyCols {w top bot x : Nat} {m : Raster Bool} (hle : top ≤ bot) :
    x ∈ dirtyCols w m top bot ↔ x < w ∧ ∃ y, top ≤ y ∧ y ≤ bot ∧ m.get? x y = some true := by
  simp only [dirtyCols, List.mem_filter, List.mem_range, List.any_eq_true, List.mem_range'_1, beq_iff_eq]
  constructor
  · rintro ⟨hx, y, ⟨h1, h2⟩, h3⟩
    exact ⟨hx, y, h1, by omega, h3⟩
  · rintro ⟨hx, y, h1, h2, h3⟩
    exact ⟨hx, y, ⟨h1, by omega⟩, h3⟩

end Sys2Proof.Machine
end

