-- ==== Sys2Proof/Laws/HostUpdate.lean ====
section
/-! SUPPORT. What each part of the host's procedure does, said once: an operation issued, a sequence of reads, a sequence of transport
calls. -/

namespace Sys2Proof.Machine

variable {α β : Type} {h : Session} {t : State}

@[simp] theorem bind_done (v : α) (f : α → Session → HostOutcome β) : (HostOutcome.done v h).bind f = f v h := rfl
@[simp] theorem bind_transportError (f : α → Session → HostOutcome β) :
    (HostOutcome.transportError h).bind f = .transportError h := rfl
@[simp] theorem bind_noData (f : α → Session → HostOutcome β) : (HostOutcome.noData h).bind f = .noData h := rfl

/-- Where a bind ends with a value, both its parts do. -/
theorem bind_eq_done {o : HostOutcome α} {f : α → Session → HostOutcome β} {v : β} {h' : Session} :
    o.bind f = .done v h' ↔ ∃ a h₁, o = .done a h₁ ∧ f a h₁ = .done v h' := by
  cases o <;> simp

/-- Where a bind ends in a transport failure, its first part does, or its second after it. -/
theorem bind_eq_transportError {o : HostOutcome α} {f : α → Session → HostOutcome β} {h' : Session} :
    o.bind f = .transportError h' ↔ o = .transportError h' ∨ ∃ a h₁, o = .done a h₁ ∧ f a h₁ = .transportError h' := by
  cases o <;> simp

@[simp] theorem after_block (op : Operation) : (h.after op t).block = t := rfl
@[simp] theorem after_issued (op : Operation) : (h.after op t).issued = h.issued ++ [op] := rfl
@[simp] theorem after_bus (op : Operation) : (h.after op t).bus = h.bus := rfl
@[simp] theorem after_failAfter (op : Operation) : (h.after op t).failAfter = h.failAfter := rfl

@[simp] theorem afterReads_issued (r : Option Response) (ops : List Operation) : (h.afterReads r ops).issued = h.issued ++ ops := rfl
@[simp] theorem afterReads_bus (r : Option Response) (ops : List Operation) : (h.afterReads r ops).bus = h.bus := rfl
@[simp] theorem afterReads_failAfter (r : Option Response) (ops : List Operation) :
    (h.afterReads r ops).failAfter = h.failAfter := rfl
@[simp] theorem afterReads_w (r : Option Response) (ops : List Operation) : (h.afterReads r ops).block.w = h.block.w := rfl
@[simp] theorem afterReads_h (r : Option Response) (ops : List Operation) : (h.afterReads r ops).block.h = h.block.h := rfl
@[simp] theorem afterReads_pb (r : Option Response) (ops : List Operation) : (h.afterReads r ops).block.pb = h.block.pb := rfl
@[simp] theorem afterReads_cf (r : Option Response) (ops : List Operation) : (h.afterReads r ops).block.cf = h.block.cf := rfl
@[simp] theorem afterReads_pf (r : Option Response) (ops : List Operation) : (h.afterReads r ops).block.pf = h.block.pf := rfl
@[simp] theorem afterReads_dm (r : Option Response) (ops : List Operation) : (h.afterReads r ops).block.dm = h.block.dm := rfl

@[simp] theorem afterReads_afterReads (r r' : Option Response) (ops ops' : List Operation) :
    (h.afterReads r ops).afterReads r' ops' = h.afterReads r' (ops ++ ops') := by
  simp [Session.afterReads]

theorem afterReads_nil : h.afterReads h.block.response [] = h := by simp [Session.afterReads]

theorem after_respond (op : Operation) (r : Response) : h.after op (h.block.respond r) = h.afterReads (some r) [op] := rfl

/-- Reads leave the shape of the stores. -/
theorem afterReads_shaped (r : Option Response) (ops : List Operation) (hs : h.block.Shaped) :
    (h.afterReads r ops).block.Shaped := ⟨hs.panel, hs.pb, hs.cf, hs.pf, hs.dm⟩

@[simp] theorem afterCalls_block (calls : List BusCall) (n : Option Nat) : (h.afterCalls calls n).block = h.block := rfl
@[simp] theorem afterCalls_issued (calls : List BusCall) (n : Option Nat) : (h.afterCalls calls n).issued = h.issued := rfl
@[simp] theorem afterCalls_bus (calls : List BusCall) (n : Option Nat) : (h.afterCalls calls n).bus = h.bus ++ calls := rfl
@[simp] theorem afterCalls_failAfter (calls : List BusCall) (n : Option Nat) : (h.afterCalls calls n).failAfter = n := rfl

@[simp] theorem afterCalls_afterCalls (calls calls' : List BusCall) (n n' : Option Nat) :
    (h.afterCalls calls n).afterCalls calls' n' = h.afterCalls (calls ++ calls') n' := by
  simp [Session.afterCalls]

theorem afterCalls_nil : h.afterCalls [] h.failAfter = h := by simp [Session.afterCalls]

theorem issueCommand_done {i : Instr} (hd : decode (encode i) = .ok i) (ht : exec i h.block = .next t) :
    issueCommand i h = .done () (h.after (.command (encode i)) t) := by
  have ho := (execOperation_command (s := h.block) _ hd).trans ht
  simp only [issueCommand, ho]

/-- All a command can do to the session: the block executes it. -/
theorem issueCommand_cases {i : Instr} {h' : Session} (hi : issueCommand i h = .done () h') :
    ∃ t, execOperation (.command (encode i)) h.block = .next t ∧ h' = h.after (.command (encode i)) t := by
  unfold issueCommand at hi
  split at hi
  · next t ht => cases hi; exact ⟨t, ht, rfl⟩
  · cases hi
  · cases hi

theorem issueRead_done {p : Port} {v : Word} (hp : execPort p h.block = .next (h.block.respond (.data v))) :
    issueRead p h = .done v (h.after (.port p) (h.block.respond (.data v))) := by
  have ho : execOperation (.port p) h.block = .next (h.block.respond (.data v)) := hp
  simp only [issueRead, ho, respond_response, dataOf]

/-- All a read can do to the session when it gives data: the block executes it. -/
theorem issueRead_cases {p : Port} {v : Word} {h' : Session} (hi : issueRead p h = .done v h') :
    ∃ t, execOperation (.port p) h.block = .next t ∧ h' = h.after (.port p) t := by
  unfold issueRead at hi
  split at hi
  · next t ht =>
    split at hi
    · cases hi; exact ⟨t, ht, rfl⟩
    · cases hi
  · cases hi
  · cases hi

/-- Reads that the block answers, whatever the latest response was, give their data and change nothing but the response. -/
theorem readAll_done {ps : List Port} {f : Port → Word}
    (hp : ∀ p ∈ ps, ∀ r, execPort p { h.block with response := r } = .next (h.block.respond (.data (f p)))) :
    ∃ r, readAll ps h = .done (ps.map f) (h.afterReads r (ps.map .port)) := by
  induction ps generalizing h with
  | nil => exact ⟨h.block.response, by simp [readAll, afterReads_nil]⟩
  | cons p rest ih =>
    have hread := issueRead_done (hp p (by simp) h.block.response)
    rw [after_respond] at hread
    obtain ⟨r, hrest⟩ := ih (h := h.afterReads (some (.data (f p))) [.port p]) fun q hq r => hp q (by simp [hq]) r
    exact ⟨r, by simp [readAll, hread, hrest]⟩

/-- The same of several rows. -/
theorem readRows_done {rows : List (List Port)} {f : Port → Word}
    (hp : ∀ row ∈ rows, ∀ p ∈ row, ∀ r,
      execPort p { h.block with response := r } = .next (h.block.respond (.data (f p)))) :
    ∃ r, readRows rows h = .done (rows.map fun row => row.map f) (h.afterReads r (rows.flatten.map .port)) := by
  induction rows generalizing h with
  | nil => exact ⟨h.block.response, by simp [readRows, afterReads_nil]⟩
  | cons row rest ih =>
    obtain ⟨r₁, hrow⟩ := readAll_done fun p hmem r => hp row (by simp) p hmem r
    obtain ⟨r, hrest⟩ := ih (h := h.afterReads r₁ (row.map .port)) fun row' hrow' p hmem r => hp row' (by simp [hrow']) p hmem r
    exact ⟨r, by simp [readRows, hrow, hrest]⟩

/-- A transport that never fails carries out every call. -/
theorem callAll_never {cs : List BusCall} (hf : h.failAfter = none) : callAll cs h = .done () (h.afterCalls cs none) := by
  induction cs generalizing h with
  | nil => rw [← hf, afterCalls_nil, callAll]
  | cons c rest ih => simp [callAll, callBus, hf, ih (h := h.afterCalls [c] none) rfl]

/-- A transport that fails later carries out every call. -/
theorem callAll_enough {cs : List BusCall} {k : Nat} (hf : h.failAfter = some k) (hk : cs.length ≤ k) :
    callAll cs h = .done () (h.afterCalls cs (some (k - cs.length))) := by
  induction cs generalizing h k with
  | nil => rw [List.length_nil, Nat.sub_zero, ← hf, afterCalls_nil, callAll]
  | cons c rest ih =>
    cases k with
    | zero => simp at hk
    | succ k =>
      simp only [List.length_cons, Nat.add_le_add_iff_right] at hk
      simp [callAll, callBus, hf, ih (h := h.afterCalls [c] (some k)) rfl hk]

/-- A transport that fails within the calls carries out those before the failure. -/
theorem callAll_fails {cs : List BusCall} {k : Nat} (hf : h.failAfter = some k) (hk : k < cs.length) :
    callAll cs h = .transportError (h.afterCalls (cs.take k) (some 0)) := by
  induction cs generalizing h k with
  | nil => simp at hk
  | cons c rest ih =>
    cases k with
    | zero => rw [List.take_zero, ← hf, afterCalls_nil, callAll, callBus, hf, bind_transportError]
    | succ k =>
      simp only [List.length_cons, Nat.add_lt_add_iff_right] at hk
      simp [callAll, callBus, hf, ih (h := h.afterCalls [c] (some k)) rfl hk]

/-- Transport calls leave the block and what was issued to it alone. -/
theorem callAll_block {cs : List BusCall} {h' : Session} (hc : callAll cs h = .done () h' ∨ callAll cs h = .transportError h') :
    h'.block = h.block ∧ h'.issued = h.issued := by
  cases hf : h.failAfter with
  | none =>
    rw [callAll_never hf] at hc
    rcases hc with hc | hc <;> cases hc
    exact ⟨rfl, rfl⟩
  | some k =>
    by_cases hk : cs.length ≤ k
    · rw [callAll_enough hf hk] at hc
      rcases hc with hc | hc <;> cases hc
      exact ⟨rfl, rfl⟩
    · rw [callAll_fails hf (Nat.lt_of_not_le hk)] at hc
      rcases hc with hc | hc <;> cases hc
      exact ⟨rfl, rfl⟩

end Sys2Proof.Machine
end

