-- ==== Sys2Proof/Laws/Operation.lean ====
section
/-! SUPPORT. Everything one operation can do, said once: it is refused, it answers data, or it completes with the effect of its kind.
Invariants and whole-machine rules are read off these cases. -/

namespace Sys2Proof.Machine

variable {s t : State}

/-- The operation presents a word that decodes to this command. -/
def isCommand (op : Operation) (i : Instr) : Prop := ∃ w, op = .command w ∧ decode w = .ok i

/-- The operations that write PB. -/
def writesBuffer (op : Operation) : Prop :=
  (∃ r g b, isCommand op (.fill r g b)) ∨ (∃ x y r g b, op = .port (.pbw x y r g b)) ∨
    ∃ h w n data, op = .port (.pbl h w n data)

/-- When an operation raises a cause. -/
def raises (op : Operation) (s : State) (k : Cause) : Prop :=
  (k = .illegal ∧ ∃ w e, op = .command w ∧ decode w = .error e) ∨
  (k = .seq ∧ s.cf = none ∧ (isCommand op .compare ∨ isCommand op .commit)) ∨
  (k = .range ∧ ∃ x y, s.outside x y = true ∧ ((∃ r g b, op = .port (.pbw x y r g b)) ∨ op = .port (.pbr x y) ∨
    op = .port (.cfr x y) ∨ op = .port (.pfr x y) ∨ op = .port (.dmr x y))) ∨
  (k = .shape ∧ ∃ h w n data, op = .port (.pbl h w n data) ∧ ¬(h.toNat = s.h ∧ w.toNat = s.w ∧ n.toNat = 3)) ∨
  (k = .invalid ∧ ∃ x y, s.outside x y = false ∧ ((op = .port (.cfr x y) ∧ s.cf = none) ∨
    (op = .port (.pfr x y) ∧ s.pf = none) ∨ (op = .port (.dmr x y) ∧ s.dm = none)))

/-- The cases of one operation that answers a next state. -/
inductive Effect (op : Operation) (s : State) : State → Prop where
  | refused (k : Cause) (hk : raises op s k) : Effect op s ((s.recordError k).respond (.err k))
  | answered (v : Word) (hport : ∃ p, op = .port p) : Effect op s (s.respond (.data v))
  | converted (hop : isCommand op .convert) : Effect op s ((s.dropMask.setFrame (convertFrame s.pb)).respond .ok)
  | comparedAbsent (hop : isCommand op .compare) (cur : Raster Packed) (hcf : s.cf = some cur) (hpf : s.pf = none) :
      Effect op s ((s.setMask (Raster.const s.w s.h true) true true).respond .ok)
  | comparedPresent (hop : isCommand op .compare) (cur prev : Raster Packed) (hcf : s.cf = some cur) (hpf : s.pf = some prev) :
      Effect op s ((s.setMask (diffFrame cur prev) false (diffFrame cur prev).anyTrue).respond .ok)
  | committed (hop : isCommand op .commit) (cur : Raster Packed) (hcf : s.cf = some cur) :
      Effect op s ((s.dropMask.setCache (some cur)).respond .ok)
  | invalidated (hop : isCommand op .invalidate) : Effect op s ((s.dropMask.setCache none).respond .ok)
  | stored (hop : writesBuffer op) (pb : Raster Pixel) (hwf : s.pb.wf s.w s.h = true → pb.wf s.w s.h = true) :
      Effect op s ((s.setBuffer pb).respond .ok)

theorem effect_readOptional {α : Type} {store : Option (Raster α)} {x y : Coord} {data : α → Word} {op : Operation}
    (hport : ∃ p, op = .port p)
    (hrange : s.outside x y = true → raises op s .range) (hvalue : s.outside x y = false → store = none → raises op s .invalid)
    (hread : readOptional store x y data s = .next t) : Effect op s t := by
  rcases readOptional_next hread with ⟨ho, hr⟩ | ⟨ho, hnone, hr⟩ | ⟨r, v, _, _, _, rfl⟩
  · cases hr
    exact .refused _ (hrange ho)
  · cases hr
    exact .refused _ (hvalue ho hnone)
  · exact .answered _ hport

theorem effect_port {p : Port} (hp : execPort p s = .next t) : Effect (.port p) s t := by
  cases p with
  | pbw x y r g b =>
    cases ho : s.outside x y with
    | true =>
      cases (execPbw_outside r g b ho).symm.trans hp
      exact .refused _ (.inr (.inr (.inl ⟨rfl, x, y, ho, .inl ⟨r, g, b, rfl⟩⟩)))
    | false =>
      cases (execPbw_inside r g b ho).symm.trans hp
      exact .stored (.inr (.inl ⟨x, y, r, g, b, rfl⟩)) _ (Raster.wf_set _)
  | pbr x y =>
    cases ho : s.outside x y with
    | true =>
      cases (execPbr_outside ho).symm.trans hp
      exact .refused _ (.inr (.inr (.inl ⟨rfl, x, y, ho, .inr (.inl rfl)⟩)))
    | false =>
      obtain ⟨v, _, rfl⟩ := readElement_next ((execPbr_inside ho).symm.trans hp)
      exact .answered _ ⟨_, rfl⟩
  | pbl h w n data =>
    by_cases hs : h.toNat = s.h ∧ w.toNat = s.w ∧ n.toNat = 3
    · cases (execPbl_shape data hs).symm.trans hp
      refine .stored (.inr (.inr ⟨h, w, n, data, rfl⟩)) _ fun _ => rasterOfData_wf hs.2.2 hs.2.1 hs.1 data
    · cases (execPbl_noShape data hs).symm.trans hp
      exact .refused _ (.inr (.inr (.inr (.inl ⟨rfl, h, w, n, data, rfl, hs⟩))))
  | cfr x y =>
    exact effect_readOptional ⟨_, rfl⟩ (fun ho => .inr (.inr (.inl ⟨rfl, x, y, ho, .inr (.inr (.inl rfl))⟩)))
      (fun ho hn => .inr (.inr (.inr (.inr ⟨rfl, x, y, ho, .inl ⟨rfl, hn⟩⟩)))) hp
  | pfr x y =>
    exact effect_readOptional ⟨_, rfl⟩ (fun ho => .inr (.inr (.inl ⟨rfl, x, y, ho, .inr (.inr (.inr (.inl rfl)))⟩)))
      (fun ho hn => .inr (.inr (.inr (.inr ⟨rfl, x, y, ho, .inr (.inl ⟨rfl, hn⟩)⟩)))) hp
  | dmr x y =>
    exact effect_readOptional ⟨_, rfl⟩ (fun ho => .inr (.inr (.inl ⟨rfl, x, y, ho, .inr (.inr (.inr (.inr rfl)))⟩)))
      (fun ho hn => .inr (.inr (.inr (.inr ⟨rfl, x, y, ho, .inr (.inr ⟨rfl, hn⟩)⟩)))) hp
  | str =>
    cases hp
    exact .answered _ ⟨_, rfl⟩

theorem effect_command {w : Word} {i : Instr} (hd : decode w = .ok i) (hi : exec i s = .next t) : Effect (.command w) s t := by
  have hop : isCommand (.command w) i := ⟨w, rfl, hd⟩
  cases i with
  | convert =>
    cases hi
    exact .converted hop
  | compare =>
    cases hcf : s.cf with
    | none =>
      cases (execCompare_noFrame hcf).symm.trans hi
      exact .refused _ (.inr (.inl ⟨rfl, hcf, .inl hop⟩))
    | some cur =>
      cases hpf : s.pf with
      | none =>
        cases (execCompare_absent hcf hpf).symm.trans hi
        exact .comparedAbsent hop cur hcf hpf
      | some prev =>
        cases (execCompare_present hcf hpf).symm.trans hi
        exact .comparedPresent hop cur prev hcf hpf
  | commit =>
    cases hcf : s.cf with
    | none =>
      cases (execCommit_noFrame hcf).symm.trans hi
      exact .refused _ (.inr (.inl ⟨rfl, hcf, .inr hop⟩))
    | some cur =>
      cases (execCommit_frame hcf).symm.trans hi
      exact .committed hop cur hcf
  | invalidate =>
    cases hi
    exact .invalidated hop
  | fill r g b =>
    cases hi
    exact .stored (.inl ⟨r, g, b, hop⟩) _ fun _ => Raster.wf_const _

/-- Everything an operation can do. -/
theorem execOperation_effect {op : Operation} (ht : execOperation op s = .next t) : Effect op s t := by
  cases op with
  | port p => exact effect_port ht
  | command w =>
    cases hd : decode w with
    | error e =>
      cases (execOperation_illegal w hd).symm.trans ht
      exact .refused _ (.inl ⟨rfl, w, e, rfl, hd⟩)
    | ok i => exact effect_command hd ((execOperation_command w hd).symm.trans ht)

end Sys2Proof.Machine
end

