-- ==== Sys2Proof/Laws/PerInstr.lean ====
section
/-! SUPPORT. Families of laws with one lemma per constructor of `Instr`. -/

namespace Sys2Proof.Laws

/-- The row of the opcode map that carries the instruction's name selects the instruction's word (30_encoding.md R59, R63). -/
def SelectsOwnRow.Statement (i : Instr) : Prop := ∃ row ∈ opcodeMap, row.mnemonic = i.mnemonic ∧ row.selects (encode i) = true

theorem SelectsOwnRow.convert : SelectsOwnRow.Statement .convert := ⟨⟨"CONVERT", 0x01000000, 0xFFFFFFFF⟩, by decide⟩

theorem SelectsOwnRow.compare : SelectsOwnRow.Statement .compare := ⟨⟨"COMPARE", 0x02000000, 0xFFFFFFFF⟩, by decide⟩

theorem SelectsOwnRow.commit : SelectsOwnRow.Statement .commit := ⟨⟨"COMMIT", 0x03000000, 0xFFFFFFFF⟩, by decide⟩

theorem SelectsOwnRow.invalidate : SelectsOwnRow.Statement .invalidate := ⟨⟨"INVALIDATE", 0x04000000, 0xFFFFFFFF⟩, by decide⟩

theorem SelectsOwnRow.fill (r g b : Byte) : SelectsOwnRow.Statement (.fill r g b) := by
  refine ⟨⟨"FILL", 0x05000000, 0xFF000000⟩, by decide, rfl, ?_⟩
  have hmask : (0xFF000000 : Word) = 0xFF#8 ++ 0#24 := by decide
  have hword : encode (.fill r g b) = 5#8 ++ (r ++ g ++ b : BitVec 24) := by
    apply BitVec.eq_of_toNat_eq
    have hr := r.isLt
    have hg := g.isLt
    have hb := b.isLt
    simp only [encode, commandWord_toNat, BitVec.toNat_append]
    rw [← Nat.shiftLeft_add_eq_or_of_lt hb, ← Nat.shiftLeft_add_eq_or_of_lt hg, ← Nat.shiftLeft_add_eq_or_of_lt (by omega)]
    simp [Nat.shiftLeft_eq]
    omega
  simp only [OpcodeRow.selects, hword, hmask, beq_iff_eq]
  rw [BitVec.and_append, BitVec.and_zero]
  decide

end Sys2Proof.Laws
end

