-- ==== Sys2Proof/Laws/Run.lean ====
section
/-! SUPPORT. Runs of the machine: a run of one more step ends in a step. -/

namespace Sys2Proof.Machine

theorem run_zero (s : State) : core.run 0 s = .next s := rfl

theorem run_of_next {s s' : State} (hs : step s = .next s') (n : Nat) : core.run (n + 1) s = core.run n s' := by
  have hc : core.step s = .next s' := hs
  simp only [Host.Core.run, hc]

theorem run_of_fault {s : State} {r : Fault} (hs : step s = .fault r) (n : Nat) : core.run (n + 1) s = .fault r := by
  have hc : core.step s = .fault r := hs
  simp only [Host.Core.run, hc]

theorem run_of_refused {s : State} {r : Refusal} (hs : step s = .refused r) (n : Nat) : core.run (n + 1) s = .refused r := by
  have hc : core.step s = .refused r := hs
  simp only [Host.Core.run, hc]

/-- A run that goes one step further went as far before. -/
theorem run_succ {n : Nat} {s t : State} : core.run (n + 1) s = .next t ↔ ∃ u : State, core.run n s = .next u ∧ step u = .next t := by
  induction n generalizing s with
  | zero =>
    constructor
    · intro hrun
      refine ⟨s, rfl, ?_⟩
      cases hs : step s with
      | next s' => rwa [run_of_next hs] at hrun
      | fault r => rw [run_of_fault hs] at hrun; cases hrun
      | refused r => rw [run_of_refused hs] at hrun; cases hrun
    · rintro ⟨u, hu, hs⟩
      cases hu
      rw [run_of_next hs, run_zero]
  | succ n ih =>
    cases hs : step s with
    | next s' => rw [run_of_next hs, run_of_next hs, ih]
    | fault r => simp [run_of_fault hs]
    | refused r => simp [run_of_refused hs]

end Sys2Proof.Machine
end

