-- ==== Sys2Proof/Tests/Slice0.lean ====
section
/-! SUPPORT. Tests with expected results from 95_test_vectors.md and the examples of the rules, and for every statement with
hypotheses a witness that meets them. -/

namespace Sys2Proof.Tests

open Sys2Proof.Machine

/-! ### Small states -/

/-- The next state of an outcome. -/
def nextState : Result → Option State
  | .next s => some s
  | .fault _ => none
  | .refused _ => none

/-- The response of the next state. -/
def reply (o : Result) : Option Response := (nextState o).bind State.response

/-- STATUS of the next state. -/
def statusAfter (o : Result) : Option Word := (nextState o).map State.status

/-- After reset, `W = 2`, `H = 1`, PB = [[(255,0,0),(18,52,86)]] (V-CV1). -/
def fresh : State :=
  { w := 2, h := 1, pb := [[⟨255, 0, 0⟩, ⟨18, 52, 86⟩]], cf := none, pf := none, dm := none, full := false, any := false,
    err := none, pending := [], response := none, draws := 0 }

/-- STATUS 0x01: converted, cache absent. -/
def converted : State := { fresh with cf := some [[0xF800, 0x11AB]] }

/-- STATUS 0x03: converted, cache present (V-CP1). -/
def cached : State := { converted with pf := some [[0xF800, 0x11AA]] }

/-- STATUS 0x17: compared with a present cache, one pixel dirty (V-CP1). -/
def compared : State := { cached with dm := some [[false, true]], any := true }

/-- STATUS 0x1D: compared with an absent cache (V-CP3). -/
def comparedAbsent : State := { converted with dm := some [[true, true]], full := true, any := true }

theorem fresh_shaped : fresh.Shaped := ⟨by decide, by decide, nofun, nofun, nofun⟩

theorem converted_shaped : converted.Shaped := ⟨by decide, by decide, by rintro _ ⟨⟩; decide, nofun, nofun⟩

theorem cached_shaped : cached.Shaped := ⟨by decide, by decide, by rintro _ ⟨⟩; decide, by rintro _ ⟨⟩; decide, nofun⟩

theorem compared_shaped : compared.Shaped :=
  ⟨by decide, by decide, by rintro _ ⟨⟩; decide, by rintro _ ⟨⟩; decide, by rintro _ ⟨⟩; decide⟩

theorem comparedAbsent_shaped : comparedAbsent.Shaped :=
  ⟨by decide, by decide, by rintro _ ⟨⟩; decide, nofun, by rintro _ ⟨⟩; decide⟩

/-! ### Well-formedness: each check refuses an ill-formed term (00_scope.md R5, 20_memory.md R30) -/

theorem test_panel_width_zero : panelWf 0 1 = false := by decide
theorem test_panel_width_too_large : panelWf 65537 1 = false := by decide
theorem test_panel_height_zero : panelWf 1 0 = false := by decide
theorem test_panel_height_too_large : panelWf 1 65537 = false := by decide
theorem test_panel_largest : panelWf 65536 65536 = true := by decide
theorem test_raster_missing_row : Raster.wf 2 2 [[1, 2]] = false := by decide
theorem test_raster_short_row : Raster.wf 2 2 [[1, 2], [3]] = false := by decide
theorem test_raster_right : Raster.wf 2 2 [[1, 2], [3, 4]] = true := by decide
theorem test_every_fill_well_formed : (Instr.fill 255 0 255).wellFormed = true := by decide

/-! ### Decoding: words written out from 30_encoding.md R55, R59 and 95_test_vectors.md 4.5 -/

theorem test_decode_convert : decode 0b00000001000000000000000000000000 = .ok .convert := by decide
theorem test_decode_compare : decode 0b00000010000000000000000000000000 = .ok .compare := by decide
theorem test_decode_commit : decode 0b00000011000000000000000000000000 = .ok .commit := by decide
theorem test_decode_invalidate : decode 0b00000100000000000000000000000000 = .ok .invalidate := by decide
theorem test_decode_fill : decode 0b00000101000100100011010001010110 = .ok (.fill 18 52 86) := by decide
theorem test_decode_fill_red : decode 0x05FF0000 = .ok (.fill 255 0 0) := by decide
theorem test_decode_fill_green : decode 0x0500FF00 = .ok (.fill 0 255 0) := by decide
theorem test_decode_fill_blue : decode 0x050000FF = .ok (.fill 0 0 255) := by decide
theorem test_decode_illegal_zero : decode 0x00000000 = .error .noSuchOpcode := by decide
theorem test_decode_illegal_low_byte : decode 0x00000005 = .error .noSuchOpcode := by decide
theorem test_decode_illegal_operand_low : decode 0x01000001 = .error .operandNotZero := by decide
theorem test_decode_illegal_operand_high : decode 0x01800000 = .error .operandNotZero := by decide
theorem test_decode_illegal_operand_middle : decode 0x02000100 = .error .operandNotZero := by decide
theorem test_decode_illegal_commit : decode 0x03FFFFFF = .error .operandNotZero := by decide
theorem test_decode_illegal_invalidate : decode 0x04010000 = .error .operandNotZero := by decide
theorem test_decode_illegal_six : decode 0x06000000 = .error .noSuchOpcode := by decide
theorem test_decode_illegal_shifted : decode 0x50000000 = .error .noSuchOpcode := by decide
theorem test_decode_illegal_85 : decode 0x85000000 = .error .noSuchOpcode := by decide
theorem test_decode_illegal_ones : decode 0xFFFFFFFF = .error .noSuchOpcode := by decide
theorem test_encode_fill : encode (.fill 8 4 8) = 0x05080408 := by decide
theorem test_encode_invalidate : encode .invalidate = 0x04000000 := by decide
theorem test_table_word_too_long : decodeTableWord 40 0x01000000 = none := by decide

/-! ### The converter: 95_test_vectors.md 2.1 -/

theorem test_pack565_source_examples :
    pack565 ⟨255, 255, 255⟩ = 0xFFFF ∧ pack565 ⟨0, 0, 0⟩ = 0x0000 ∧ pack565 ⟨255, 0, 0⟩ = 0xF800 := by decide

theorem test_pack565_vectors :
    pack565 ⟨0, 255, 0⟩ = 0x07E0 ∧ pack565 ⟨0, 0, 255⟩ = 0x001F ∧ pack565 ⟨7, 3, 7⟩ = 0x0000 ∧ pack565 ⟨8, 4, 8⟩ = 0x0821 ∧
      pack565 ⟨247, 251, 247⟩ = 0xF7DE ∧ pack565 ⟨200, 100, 50⟩ = 0xCB26 ∧ pack565 ⟨165, 90, 60⟩ = 0xA2C7 := by decide

/-! ### The commands -/

/-- V-CV1. -/
theorem test_convert : (nextState (exec .convert fresh)).map State.cf = some (some [[0xF800, 0x11AA]]) := by decide

/-- V-CV3. -/
theorem test_convert_drops_mask : statusAfter (exec .convert compared) = some 0x00000003 := by decide

/-- V-CP1. -/
theorem test_compare_present :
    (nextState (exec .compare cached)).map (fun s => (s.dm, s.status)) = some (some [[false, true]], 0x00000017) := by decide

/-- V-CP5. -/
theorem test_compare_before_convert :
    (nextState (exec .compare fresh)).map (fun s => (s.dm, s.status)) = some (none, 0x00000200) := by decide

/-- V-CM1. -/
theorem test_commit :
    (nextState (exec .commit comparedAbsent)).map (fun s => (s.pf, s.status)) =
      some (some [[0xF800, 0x11AB]], 0x00000003) := by decide

/-- V-CM2. -/
theorem test_commit_before_convert :
    (nextState (exec .commit fresh)).map (fun s => (s.pf, s.status)) = some (none, 0x00000200) := by decide

/-- V-IN2. -/
theorem test_invalidate : statusAfter (exec .invalidate compared) = some 0x00000001 := by decide

/-- V-IN5. -/
theorem test_invalidate_keeps_err :
    statusAfter (exec .invalidate { cached with err := some .invalid }) = some 0x00000501 := by decide

/-- V-FL4. -/
theorem test_fill : (nextState (exec (.fill 18 52 86) fresh)).map State.pb = some [[⟨18, 52, 86⟩, ⟨18, 52, 86⟩]] := by decide

/-- V-FL5. -/
theorem test_fill_keeps_flags : statusAfter (exec (.fill 1 2 3) compared) = some 0x00000017 := by decide

/-! ### The ports: 20_memory.md R43 to R49, 95_test_vectors.md 4.3, P3 -/

/-- R43. -/
theorem test_pbw : (nextState (execPort (.pbw 1 0 200 100 50) fresh)).map State.pb = some [[⟨255, 0, 0⟩, ⟨200, 100, 50⟩]] := by decide

/-- V-PT4. -/
theorem test_pbw_range : statusAfter (execPort (.pbw 2 0 9 9 9) fresh) = some 0x00000300 := by decide

/-- P3 step 15. -/
theorem test_pbr : reply (execPort (.pbr 1 0) fresh) = some (.data 0x123456) := by decide

/-- V-PT6. -/
theorem test_pbr_range : reply (execPort (.pbr 65535 65535) fresh) = some (.err .range) := by decide

/-- R45. -/
theorem test_pbl :
    (nextState (execPort (.pbl 1 2 3 #v[#v[#v[1, 2, 3], #v[4, 5, 6]]]) fresh)).map State.pb =
      some [[⟨1, 2, 3⟩, ⟨4, 5, 6⟩]] := by decide

/-- R45, the transposed shape. -/
theorem test_pbl_transposed :
    statusAfter (execPort (.pbl 2 1 3 #v[#v[#v[1, 2, 3]], #v[#v[4, 5, 6]]]) fresh) = some 0x00000400 := by decide

/-- V-PT14. -/
theorem test_cfr : reply (execPort (.cfr 0 0) converted) = some (.data 0x0000F800) := by decide

/-- V-PT8: range is checked before validity. -/
theorem test_cfr_range_first : reply (execPort (.cfr 2 0) fresh) = some (.err .range) := by decide

/-- V-CM5. -/
theorem test_pfr : reply (execPort (.pfr 1 0) cached) = some (.data 0x000011AA) := by decide

/-- V-PT17. -/
theorem test_pfr_absent : reply (execPort (.pfr 0 0) converted) = some (.err .invalid) := by decide

/-- V-PT16. -/
theorem test_dmr : reply (execPort (.dmr 1 0) compared) = some (.data 0x00000001) := by decide

/-- V-ER5. -/
theorem test_dmr_invalid : statusAfter (execPort (.dmr 0 0) fresh) = some 0x00000500 := by decide

/-- R49. -/
theorem test_str : reply (execPort .str comparedAbsent) = some (.data 0x0000001D) := by decide

/-- V-ER6: the first error is kept, the response is the operation's own. -/
theorem test_first_error_kept :
    (nextState (execCommand 0xFFFFFFFF { fresh with err := some .seq })).map (fun s => (s.response, s.status)) =
      some (some (.err .illegal), 0x00000200) := by decide

/-- V-ER8: decode is checked before CFV. -/
theorem test_decode_before_state : statusAfter (execCommand 0x02000001 fresh) = some 0x00000100 := by decide

/-- V-ER9. -/
theorem test_rst : statusAfter (step { compared with err := some .invalid, pending := [.rst] }) = some 0x00000000 := by decide

/-- A pixel and its 24-bit word (20_memory.md R35). -/
theorem test_pixel_word : pixelWord ⟨0xC8, 0x64, 0x32⟩ = 0xC86432 ∧ pixelOfWord 0xC86432 = ⟨0xC8, 0x64, 0x32⟩ := by decide

/-- A command presented after reset is executed by the next step. -/
theorem test_first_command_after_reset : reply (step (State.reset.withFetchWord 32 0x02000000)) = some (.err .seq) := by decide

/-! ### The host software: 95_test_vectors.md section 5 -/

theorem test_bands_contiguous : bands 1 [5, 6, 7] = [(5, 5), (6, 6), (7, 7)] ∧ bands 2 [5, 6, 7] = [(5, 7)] := by decide
theorem test_bands_chaining : bands 3 [0, 2, 4, 9] = [(0, 4), (9, 9)] ∧ bands 6 [0, 2, 4, 9] = [(0, 9)] := by decide
theorem test_rects :
    rects 3 2 2 [[true, true, true], [true, true, true]] = [⟨0, 0, 2, 1⟩] ∧
      (rects 3 2 1 [[true, true, true], [true, true, true]]).length = 6 := by decide
theorem test_payload :
    payload [[0x1111, 0x2222], [0x3333, 0x4444]] ⟨0, 0, 1, 1⟩ = [0x11, 0x11, 0x33, 0x33, 0x22, 0x22, 0x44, 0x44] := by decide
theorem test_window_write :
    windowWrite [[0xF800, 0xF800], [0x07E0, 0xF800]] ⟨0, 1, 0, 1⟩ =
      [⟨.setColumnWindow, [0, 0, 0, 0]⟩, ⟨.setRowWindow, [0, 1, 0, 1]⟩, ⟨.writePixels, [0x07, 0xE0]⟩] := by decide
theorem test_chunks :
    chunks 3 [0xF8, 0x00, 0xF8, 0x00, 0xF8, 0x00, 0xF8, 0x00] = [[0xF8, 0x00, 0xF8], [0x00, 0xF8, 0x00], [0xF8, 0x00]] ∧
      chunks 0 [0xF8, 0x00] = [[0xF8, 0x00]] ∧ chunks 16 [0xF8, 0x00] = [[0xF8, 0x00]] := by decide

/-- A host with merge distance 2 and chunk size 4; its three command bytes stand for what the source leaves out (R124). -/
def options : HostOptions := { mergeDistance := 2, chunkSize := 4, columnByte := 0xA1, rowByte := 0xA2, pixelsByte := 0xA3 }

/-- Nothing issued and nothing sent yet. -/
def sessionOf (s : State) (failAfter : Option Nat) : Session := { block := s, issued := [], bus := [], failAfter := failAfter }

/-- Whether the procedure ended with success. -/
def succeeded : HostOutcome Unit → Bool
  | .done _ _ => true
  | .transportError _ => false
  | .noData _ => false

/-- The session at the end. -/
def endOf : HostOutcome Unit → Session
  | .done _ h => h
  | .transportError h => h
  | .noData h => h

/-- R115: one byte in the command phase, then the data phase in writes of at most 4 bytes. -/
theorem test_command_calls :
    commandCalls options ⟨.writePixels, [1, 2, 3, 4, 5, 6]⟩ =
      [.selectCommandMode, .writeBytes [0xA3], .selectDataMode, .writeBytes [1, 2, 3, 4], .writeBytes [5, 6]] := by decide

/-- A panel of one row, as P3 steps 14 to 20: `FULL = 1`, the rectangle (0,0,2,0). -/
def p3 : State :=
  { w := 3, h := 1, pb := [[⟨18, 52, 86⟩, ⟨200, 100, 50⟩, ⟨128, 128, 128⟩]], cf := none, pf := none, dm := none, full := false,
    any := false, err := none, pending := [], response := none, draws := 0 }

/-- P3 step 19: column window `00 00 00 02`, row window `00 00 00 00`, payload `11 AA CB 26 84 10`. -/
theorem test_update_bus :
    (endOf (hostUpdate options (sessionOf p3 none))).bus =
      [.selectCommandMode, .writeBytes [0xA1], .selectDataMode, .writeBytes [0x00, 0x00, 0x00, 0x02],
        .selectCommandMode, .writeBytes [0xA2], .selectDataMode, .writeBytes [0x00, 0x00, 0x00, 0x00],
        .selectCommandMode, .writeBytes [0xA3], .selectDataMode, .writeBytes [0x11, 0xAA, 0xCB, 0x26],
        .writeBytes [0x84, 0x10]] := by decide

/-- P3 steps 16, 18, 20: the operations the host issues; with `FULL = 1` it reads no mask. -/
theorem test_update_issued :
    (endOf (hostUpdate options (sessionOf p3 none))).issued =
      [.command 0x01000000, .command 0x02000000, .port .str, .port (.cfr 0 0), .port (.cfr 1 0), .port (.cfr 2 0),
        .command 0x03000000] := by decide

/-- As P2 step 10, on the 2 by 1 panel: the buffer of `cached` with one changed pixel. -/
def dirtied : State := { cached with pb := [[⟨255, 0, 0⟩, ⟨0, 255, 0⟩]] }

/-- As P2 steps 11 to 15, on the 2 by 1 panel: the host reads the mask and the one dirty pixel; the transport fails; no `COMMIT`. -/
theorem test_update_fails :
    succeeded (hostUpdate options (sessionOf dirtied (some 5))) = false ∧
      (endOf (hostUpdate options (sessionOf dirtied (some 5)))).issued =
        [.command 0x01000000, .command 0x02000000, .port .str, .port (.dmr 0 0), .port (.dmr 1 0), .port (.cfr 1 0)] ∧
      (endOf (hostUpdate options (sessionOf dirtied (some 5)))).block.pf = cached.pf := by decide

/-- As P2 steps 1 to 4, on the 2 by 1 panel: nothing changed, no bus traffic, `COMMIT`. -/
theorem test_update_nothing_changed :
    succeeded (hostUpdate options (sessionOf { cached with pf := some [[0xF800, 0x11AA]] } (some 0))) = true ∧
      (endOf (hostUpdate options (sessionOf { cached with pf := some [[0xF800, 0x11AA]] } (some 0)))).bus = [] := by decide

/-! ### Witnesses: for every statement with hypotheses, what meets them together -/

theorem witness_DecodeEncodeAgree : Instr.compare.wellFormed = true ∧ decode 0x05123456 = .ok (.fill 18 52 86) := by decide

theorem witness_DecoderFollowsOpcodeMap :
    decode 0x01000000 = .ok .convert ∧ (⟨"FILL", 0x05000000, 0xFF000000⟩ : OpcodeRow) ∈ opcodeMap ∧
      OpcodeRow.selects ⟨"FILL", 0x05000000, 0xFF000000⟩ 0x05FFFFFF = true ∧ decode 0x05FFFFFF = .ok (.fill 255 255 255) := by decide

/-- One word at each boundary of the three classes of illegal words. -/
theorem witness_IllegalWordIsRefused :
    ({ fresh with pending := [.operation (.command 0x00FFFFFF)] } : State).pending = [.operation (.command 0x00FFFFFF)] ∧
      (0x00FFFFFF : Word).toNat / 2 ^ 24 = 0 ∧ 6 ≤ (0x06000000 : Word).toNat / 2 ^ 24 ∧ 6 ≤ (0xFFFFFFFF : Word).toNat / 2 ^ 24 ∧
      (0x01000001 : Word).toNat / 2 ^ 24 = 1 ∧ (0x01000001 : Word).toNat % 2 ^ 24 ≠ 0 ∧
      (0x04FFFFFF : Word).toNat / 2 ^ 24 = 4 ∧ (0x04FFFFFF : Word).toNat % 2 ^ 24 ≠ 0 := by decide

theorem witness_StepRunsDecodedCommand :
    ({ fresh with pending := [.operation (.command 0x01000000), .rst] } : State).pending =
        .operation (.command 0x01000000) :: [.rst] ∧
      decode 0x01000000 = .ok .convert ∧ 0x05123456 < 2 ^ 32 ∧ decodeTableWord 32 0x05123456 = some (.fill 18 52 86) :=
  ⟨by decide, by decide, by norm_num, by decide⟩

theorem witness_StepRunsPortOrWaits :
    ({ fresh with pending := [.operation (.port .str)] } : State).pending = .operation (.port .str) :: [] ∧
      fresh.pending = [] := by decide

theorem witness_Pack565Classes :
    (⟨8, 4, 8⟩ : Pixel).r ≤ (⟨15, 4, 9⟩ : Pixel).r ∧ (⟨8, 4, 8⟩ : Pixel).g ≤ (⟨15, 4, 9⟩ : Pixel).g ∧
      (⟨8, 4, 8⟩ : Pixel).b ≤ (⟨15, 4, 9⟩ : Pixel).b := by decide

theorem witness_ConvertConvertsTheBuffer :
    fresh.pb.get? 1 0 = some ⟨18, 52, 86⟩ ∧ fresh.pb.get? 2 0 = none ∧ fresh.pb.get? 0 1 = none := by decide

theorem witness_ConvertIsElementwise :
    let other : State := { compared with pb := [[⟨9, 9, 9⟩, ⟨18, 52, 86⟩]] }
    fresh.pb.get? 1 0 = other.pb.get? 1 0 ∧ (nextState (exec .convert fresh)).isSome ∧ (nextState (exec .convert other)).isSome := by
  decide

theorem witness_CompareComputesTheMask :
    fresh.cfv = false ∧ (cached.cfv = true ∧ cached.pfv = true ∧ cached.cfAt 1 0 = some 0x11AB ∧ cached.pfAt 1 0 = some 0x11AA) ∧
      (converted.cfv = true ∧ converted.pfv = false ∧ 1 < converted.w ∧ 0 < converted.h) := by decide

theorem witness_CompareNeverReadsTheBuffer :
    (nextState (exec .compare cached)).isSome ∧ (nextState (exec .compare { cached with pb := [[⟨1, 1, 1⟩, ⟨2, 2, 2⟩]] })).isSome := by
  decide

theorem witness_CompareIsElementwise :
    let other : State := { cached with cf := some [[0x0000, 0x11AB]] }
    cached.cfv = true ∧ other.cfv = true ∧ cached.w = other.w ∧ cached.h = other.h ∧ cached.pfv = other.pfv ∧
      cached.cfAt 1 0 = other.cfAt 1 0 ∧ cached.pfAt 1 0 = other.pfAt 1 0 ∧ (nextState (exec .compare cached)).isSome ∧
      (nextState (exec .compare other)).isSome := by decide

theorem witness_NoChangeGivesAnEmptyMask : fresh.Shaped ∧ compared.Shaped := ⟨fresh_shaped, compared_shaped⟩

theorem witness_CommitCopiesTheFrame : fresh.cfv = false ∧ comparedAbsent.cfv = true := by decide

theorem witness_CacheChangesInTwoWays :
    (nextState (step { compared with pending := [commandRequest .commit] })).isSome ∧
      (nextState (step { compared with pending := [commandRequest .invalidate] })).isSome ∧
      (nextState (step { compared with pending := [.rst] })).isSome ∧
      (nextState (step { compared with pending := [.rstDuring (.command 0x03000000)] })).isSome ∧
      (nextState (step { compared with pending := [commandRequest .compare] })).isSome := by decide

theorem witness_FillIsAWriteOfEveryPixel :
    fresh.Shaped ∧ (∀ c ∈ ([(1, 0), (0, 0)] : List (Coord × Coord)), c.1.toNat < fresh.w ∧ c.2.toNat < fresh.h) ∧
      ∀ x y : Nat, x < fresh.w → y < fresh.h →
        (BitVec.ofNat 16 x, BitVec.ofNat 16 y) ∈ ([(1, 0), (0, 0)] : List (Coord × Coord)) := by
  refine ⟨fresh_shaped, by simp [fresh], fun x y hx hy => ?_⟩
  have hx : x < 2 := hx
  have hy : y < 1 := hy
  interval_cases x <;> interval_cases y <;> decide

theorem witness_StoresHaveTheirWriters :
    (nextState (step { compared with pending := [commandRequest (.fill 1 2 3)] })).map State.pb ≠ some compared.pb ∧
      (nextState (step { compared with pending := [.operation (.port (.pbw 1 0 1 2 3))] })).map State.pb ≠ some compared.pb ∧
      (nextState (step { compared with pending := [commandRequest .convert] })).map State.cf ≠ some compared.cf ∧
      (nextState (step { cached with pending := [commandRequest .compare] })).map State.dm ≠ some cached.dm ∧
      (nextState (step { compared with pending := [.rst] })).map State.dm ≠ some compared.dm := by decide

/-- The last legal coordinate and the first illegal ones. -/
theorem witness_PbwWritesOnePixel :
    fresh.w ≤ (2 : Coord).toNat ∧ fresh.h ≤ (1 : Coord).toNat ∧ (1 : Coord).toNat < fresh.w ∧ (0 : Coord).toNat < fresh.h ∧
      fresh.Shaped := ⟨by decide, by decide, by decide, by decide, fresh_shaped⟩

theorem witness_PbrReadsOnePixel :
    fresh.w ≤ (2 : Coord).toNat ∧ (1 : Coord).toNat < fresh.w ∧ (0 : Coord).toNat < fresh.h ∧ fresh.Shaped :=
  ⟨by decide, by decide, by decide, fresh_shaped⟩

/-- The right shape, and one wrong shape for each side. -/
theorem witness_PblReplacesTheBuffer :
    ((1 : BitVec 17).toNat = fresh.h ∧ (2 : BitVec 17).toNat = fresh.w ∧ (3 : BitVec 17).toNat = 3) ∧ (2 : BitVec 17).toNat ≠ fresh.h ∧
      (1 : BitVec 17).toNat ≠ fresh.w ∧ (4 : BitVec 17).toNat ≠ 3 := by decide

theorem witness_CfrReadsTheFrame :
    fresh.w ≤ (2 : Coord).toNat ∧ ((1 : Coord).toNat < fresh.w ∧ (0 : Coord).toNat < fresh.h ∧ fresh.cfv = false) ∧
      ((1 : Coord).toNat < cached.w ∧ (0 : Coord).toNat < cached.h ∧ cached.cfv = true ∧ cached.Shaped) :=
  ⟨by decide, by decide, by decide, by decide, by decide, cached_shaped⟩

theorem witness_PfrReadsTheCache :
    fresh.h ≤ (1 : Coord).toNat ∧ ((1 : Coord).toNat < fresh.w ∧ (0 : Coord).toNat < fresh.h ∧ fresh.pfv = false) ∧
      ((1 : Coord).toNat < cached.w ∧ (0 : Coord).toNat < cached.h ∧ cached.pfv = true ∧ cached.Shaped) :=
  ⟨by decide, by decide, by decide, by decide, by decide, cached_shaped⟩

theorem witness_DmrReadsTheMask :
    fresh.w ≤ (2 : Coord).toNat ∧ ((1 : Coord).toNat < cached.w ∧ (0 : Coord).toNat < cached.h ∧ cached.dmv = false) ∧
      ((1 : Coord).toNat < compared.w ∧ (0 : Coord).toNat < compared.h ∧ compared.dmv = true ∧ compared.Shaped) :=
  ⟨by decide, by decide, by decide, by decide, by decide, compared_shaped⟩

theorem witness_FlagsFollowTheTable :
    (nextState (exec .convert compared)).isSome ∧ ((nextState (exec .compare converted)).isSome ∧ converted.cfv = true) ∧
      ((nextState (exec .commit compared)).isSome ∧ compared.cfv = true) ∧ (nextState (exec .invalidate compared)).isSome ∧
      (nextState (exec (.fill 0 0 0) compared)).isSome ∧ (nextState (execPort (.pbw 0 0 1 1 1) compared)).isSome ∧
      reply (execOperation (.port (.dmr 0 0)) cached) = some (.err .invalid) ∧
      (nextState (step { compared with pending := [.rst] })).isSome := by decide

/-- The compare clause of the flag table also needs the shape, and its reset clause that the next request is a reset. -/
theorem witness_FlagsFollowTheTable_shape :
    converted.Shaped ∧ cached.Shaped ∧ ({ compared with pending := [.rst] } : State).nextIsReset :=
  ⟨converted_shaped, cached_shaped, .inl rfl⟩

/-- After reset on a 2 by 1 panel, its last pixel, and a state whose next request is `rst`. -/
theorem witness_ResetState :
    fresh.AfterReset ∧ (1 : Coord).toNat < fresh.w ∧ (0 : Coord).toNat < fresh.h ∧
      ({ compared with pending := [.rst] } : State).pending = .rst :: [] :=
  ⟨⟨rfl, rfl, rfl, rfl, rfl, rfl⟩, by decide, by decide, rfl⟩

/-- One operation for each cause. -/
theorem witness_CausesFollowTheTable :
    fresh.err = none ∧ reply (execOperation (.command 0x02000001) fresh) = some (.err .illegal) ∧
      reply (execOperation (.command 0x03000000) fresh) = some (.err .seq) ∧
      reply (execOperation (.port (.pbr 2 0)) fresh) = some (.err .range) ∧
      reply (execOperation (.port (.pbl 1 2 4 #v[#v[#v[1, 2, 3, 4], #v[5, 6, 7, 8]]])) fresh) = some (.err .shape) ∧
      reply (execOperation (.port (.pfr 1 0)) fresh) = some (.err .invalid) := by decide

theorem witness_RefusalChangesNothingElse :
    reply (execOperation (.command 0x00000000) { compared with err := some .range }) = some (.err .illegal) ∧
      (nextState (execOperation (.port (.dmr 1 0)) compared)).isSome ∧ Operation.port (.dmr 1 0) ≠ .port .str := by decide

theorem witness_ErrorIsSticky :
    (nextState (step { compared with err := some .seq, pending := [.operation (.port (.dmr 2 0))] })).isSome ∧
      ({ compared with err := some .seq, pending := [.rst] } : State).nextIsReset ∧
      (nextState (step { fresh with pending := [commandRequest .compare] })).map State.err = some (some .seq) :=
  ⟨by decide, .inl rfl, by decide⟩

/-- The request of the sticky clause is no reset. -/
theorem witness_ErrorIsSticky_notReset :
    ¬({ compared with err := some .seq, pending := [.operation (.port (.dmr 2 0))] } : State).nextIsReset := by
  simp [State.nextIsReset, State.nextIs]

theorem witness_RepeatingChangesNothing :
    reply (execPort (.cfr 1 0) cached) = some (.data 0x11AB) ∧ (nextState (execOperation (.command 0x02000000) cached)).isSome ∧
      (nextState (execOperation (.command 0x02000000) fresh)).isSome := by decide

theorem witness_RstClearsAllButTheBuffer :
    ({ compared with pending := [.rst] } : State).pending = .rst :: [] ∧
      ({ compared with pending := [.rstDuring (.command 0x05010203)] } : State).pending = .rstDuring (.command 0x05010203) :: [] ∧
      fillsBuffer (.command 0x05010203) = true ∧ fillsBuffer (.command 0x01000000) = false := by decide

/-- In the second clause an operation that is neither a `FILL` nor a `PBL`. -/
theorem witness_RstClearsAllButTheBuffer_kept :
    (∀ r g b, (.command 0x01000000 : Operation) ≠ .command (encode (.fill r g b))) ∧
      ∀ h w n data, (.command 0x01000000 : Operation) ≠ .port (.pbl h w n data) := by
  refine ⟨fun r g b heq => ?_, nofun⟩
  have hop : opField 0x01000000 = opField (encode (.fill r g b)) := by
    injection heq with heq
    rw [← heq]
  rw [encode, opField_commandWord] at hop
  revert hop
  decide

/-- Every coordinate of the 2 by 1 panel. -/
theorem coords_of_panel {x y : Nat} (hx : x < 2) (hy : y < 1) : (x = 0 ∧ y = 0) ∨ (x = 1 ∧ y = 0) := by omega

/-- A state with a dirty mask that meets the invariants, its conditions checked coordinate by coordinate. -/
theorem compared_inv : compared.Inv where
  shaped := compared_shaped
  maskNeedsFrame := by decide
  fullIsAbsent := by decide
  noMaskNoFlags := by decide
  fullIsAllDirty := nofun
  maskIsExact := by
    intro _ _ x y hx hy
    rcases coords_of_panel hx hy with ⟨rfl, rfl⟩ | ⟨rfl, rfl⟩
    · exact ⟨0xF800, 0xF800, by decide⟩
    · exact ⟨0x11AB, 0x11AA, by decide⟩
  anyIsOr := fun _ => ⟨fun _ => ⟨1, 0, by decide⟩, fun _ => rfl⟩
  cacheNeedsFrame := by decide

theorem witness_StepKeepsTheInvariants :
    compared.Inv ∧ (nextState (step { compared with pending := [commandRequest .commit] })).isSome := ⟨compared_inv, by decide⟩

theorem witness_StatusTakesSixValues : compared.Inv := compared_inv

theorem witness_BlockNeverStops : compared.Inv := compared_inv

theorem witness_FrameWasConvertedEarlier :
    (nextState (core.run 2 { fresh with pending := [commandRequest .convert, commandRequest .compare] })).map State.cf =
      some (some [[0xF800, 0x11AA]]) := by decide

theorem witness_CacheIsTheLatestCommit :
    (nextState (core.run 2 { converted with pending := [commandRequest .commit, commandRequest .convert] })).map State.pf =
      some (some [[0xF800, 0x11AB]]) := by decide

theorem witness_BandGapTest : 1 ≤ 3 ∧ 3 < 4 ∧ ¬3 < 3 := by decide

theorem witness_RectsCoverEveryDirtyPixel :
    (⟨1, 0, 1, 0⟩ : Rect) ∈ rects 2 1 2 [[false, true]] ∧ 1 < 2 ∧ 0 < 1 ∧ Raster.get? [[false, true]] 1 0 = some true := by decide

theorem witness_MergingIsMonotonic : 1 ≤ 2 ∧ (rects 3 1 2 [[true, true, true]]).length = 1 := by decide

theorem witness_ChunkingFidelity : 0 < 3 ∧ [0x00] ∈ chunks 3 [0xF8, 0x00, 0xF8, 0x00] := by decide

theorem witness_PayloadIsColumnMajorBigEndian :
    Raster.wf 2 2 ([[0x1111, 0x2222], [0x3333, 0x4444]] : Raster Packed) = true ∧ Rect.onPanel 2 2 ⟨0, 0, 1, 1⟩ = true ∧
      3 < (1 - 0 + 1) * (1 - 0 + 1) := by decide

/-- The failed transmission of P2: the dirty pixel may hold its old value on the panel. -/
theorem witness_SameFrameRetryRepairsThePanel :
    cached.Shaped ∧ cached.Synced [[0xF800, 0x11AA]] ∧
      (nextState (convertCompare { cached with pb := [[⟨255, 0, 0⟩, ⟨0, 255, 0⟩]] })).map (fun u => (u.cf, rectList 0 u)) =
        some (some [[0xF800, 0x07E0]], [⟨1, 0, 1, 0⟩]) ∧
      Raster.wf 2 1 ([[0xF800, 0x11AA]] : Raster Packed) = true ∧ covered [⟨1, 0, 1, 0⟩] 0 0 = false ∧
      covered [⟨1, 0, 1, 0⟩] 1 0 = true := ⟨cached_shaped, rfl, by decide, by decide, by decide, by decide⟩

theorem witness_SecondUpdateSendsNothing : fresh.Shaped := fresh_shaped

/-- The absent cache with any panel content, and the cache that mirrors the panel. -/
theorem witness_UpdateBringsThePanelToTheBuffer :
    (fresh.Shaped ∧ Raster.wf fresh.w fresh.h ([[0x1234, 0xFFFF]] : Raster Packed) = true ∧ fresh.pf = none) ∧
      (cached.Shaped ∧ Raster.wf cached.w cached.h ([[0xF800, 0x11AA]] : Raster Packed) = true ∧
        cached.Synced [[0xF800, 0x11AA]]) :=
  ⟨⟨fresh_shaped, by decide, rfl⟩, cached_shaped, by decide, rfl⟩

theorem witness_HostReadsTheRectangles :
    (sessionOf dirtied none).block.Shaped ∧ (nextState (convertCompare (sessionOf dirtied none).block)).isSome ∧
      (nextState (convertCompare dirtied)).map (fun u => (u.full, u.any)) = some (false, true) ∧
      (nextState (convertCompare fresh)).map (fun u => (u.full, u.any)) = some (true, true) :=
  ⟨⟨by decide, by decide, by rintro _ ⟨⟩; decide, by rintro _ ⟨⟩; decide, nofun⟩, by decide, by decide, by decide⟩

theorem witness_HostReadsThePixels :
    (sessionOf cached none).block.Shaped ∧ (sessionOf cached none).block.cf = some [[0xF800, 0x11AB]] ∧
      Rect.onPanel cached.w cached.h ⟨1, 0, 1, 0⟩ = true := ⟨cached_shaped, rfl, by decide⟩

/-- A transport that never fails, one that fails only after the 12 calls, and one that fails at the last of them. -/
theorem witness_UpdateFollowsTheProcedure :
    (sessionOf fresh none).block.Shaped ∧ (endOf (hostUpdate options (sessionOf fresh none))).bus.length = 12 ∧
      succeeded (hostUpdate options (sessionOf fresh (some 12))) = true ∧
      succeeded (hostUpdate options (sessionOf fresh (some 11))) = false :=
  ⟨fresh_shaped, by decide, by decide, by decide⟩

theorem witness_UpdateIsARunOfTheBlock :
    (∃ h', hostUpdate options (sessionOf fresh none) = .done () h') ∧
      ∃ h', hostUpdate options (sessionOf fresh (some 0)) = .transportError h' := ⟨⟨_, rfl⟩, _, rfl⟩

theorem witness_SecondUpdateMakesNoBusTraffic :
    (sessionOf fresh (some 12)).block.Shaped ∧ ∃ h', hostUpdate options (sessionOf fresh (some 12)) = .done () h' :=
  ⟨fresh_shaped, _, rfl⟩

theorem witness_ClearAndRepaintComplete :
    (sessionOf fresh none).block.Shaped ∧ (sessionOf fresh none).failAfter = none ∧ 1 < fresh.w ∧ 0 < fresh.h :=
  ⟨fresh_shaped, rfl, by decide, by decide⟩

end Sys2Proof.Tests
end

section
/-! SUPPORT. Proofs of the family 10_state.md: the panel's shape and the invariants R29 over every step, the flag table R24, the
six values of STATUS, and where the contents of CF and PF come from along a run. -/

namespace Sys2Proof.Machine

variable {op : Operation} {s t : State}

/-! ### Which operation is which command -/

/-- Without an operand a word is its opcode field (30_encoding.md R58). -/
theorem commandWord_of_immField {w : Word} {c : Byte} (hop : opField w = c) (himm : immField w = 0) :
    commandWord c 0 0 0 = w := by
  have hlow : w.toNat % 2 ^ 24 = 0 := by rw [← immField_toNat, himm]; rfl
  apply BitVec.eq_of_toNat_eq
  rw [commandWord_toNat, ← hop, opField_toNat]
  simp only [BitVec.toNat_ofNat, BitVec.ofNat_eq_ofNat]
  omega

/-- A word that decodes to a command is the word of that command (30_encoding.md R67). -/
theorem encode_of_decode {w : Word} {i : Instr} (hd : decode w = .ok i) : encode i = w := by
  rcases decode_ok w hd with
    ⟨hop, himm, rfl⟩ | ⟨hop, himm, rfl⟩ | ⟨hop, himm, rfl⟩ | ⟨hop, himm, rfl⟩ | ⟨hop, rfl⟩
  · exact commandWord_of_immField hop himm
  · exact commandWord_of_immField hop himm
  · exact commandWord_of_immField hop himm
  · exact commandWord_of_immField hop himm
  · rw [encode, show (0x05 : Byte) = opField w from hop.symm, commandWord_fields]

theorem decode_encode_commit : decode (encode .commit) = .ok .commit := by decide

theorem isCommand_commit_iff : isCommand op .commit ↔ op = .command (encode .commit) := by
  constructor
  · rintro ⟨w, rfl, hd⟩
    rw [encode_of_decode hd]
  · rintro rfl
    exact ⟨_, rfl, decode_encode_commit⟩

/-- No port transaction is a command. -/
theorem not_isCommand_port (p : Port) (i : Instr) : ¬isCommand (.port p) i := by
  rintro ⟨w, hop, _⟩
  cases hop

/-! ### What a step can do -/

/-- A reset that abandons an operation is the reset input, over PB as it was or over a free PB (70_reset_and_hazards.md R142). -/
theorem abandon_eq (s : State) (op : Operation) : s.abandon op = s.applyRst ∨ s.abandon op = s.freePb.applyRst := by
  unfold State.abandon
  split
  · exact .inr rfl
  · exact .inl rfl

/-- The cases of one step: wait, one operation of the host, or the reset input. -/
inductive StepEffect (s : State) : State → Prop where
  | waited (hp : s.pending = []) : StepEffect s s
  | operated {t : State} (op : Operation) (rest : List Request) (hp : s.pending = .operation op :: rest)
      (he : Effect op (s.setPending rest) t) : StepEffect s t
  | reset (hr : s.nextIsReset) (rest : List Request) : StepEffect s (s.setPending rest).applyRst
  | resetFreePb (hr : s.nextIsReset) (rest : List Request) : StepEffect s (s.setPending rest).freePb.applyRst

/-- Everything a step can do. -/
theorem step_effect (hs : step s = .next t) : StepEffect s t := by
  rcases step_cases hs with ⟨hp, rfl⟩ | ⟨q, rest, hp, ha⟩
  · exact .waited hp
  · cases q with
    | operation op => exact .operated op rest hp (execOperation_effect ha)
    | rst =>
      cases ha
      exact .reset (.inl (by simp [State.nextIs, hp])) rest
    | rstDuring op =>
      have hr : s.nextIsReset := .inr ⟨op, by simp [State.nextIs, hp]⟩
      cases ha
      rcases abandon_eq (s.setPending rest) op with h | h <;> rw [h]
      · exact .reset hr rest
      · exact .resetFreePb hr rest

/-! ### The shape of the stores -/

/-- What a shape does not look at: PB may be any raster of the panel's shape, and ERR, the host's sequence, the response and the
draws are free. -/
theorem State.Shaped.frame (h : s.Shaped) {pb : Raster Pixel} (hpb : pb.wf s.w s.h = true) {full any : Bool} {err : Option Cause}
    {pending : List Request} {response : Option Response} {draws : Nat} :
    ({ s with pb, full, any, err, pending, response, draws } : State).Shaped :=
  ⟨h.panel, hpb, h.cf, h.pf, h.dm⟩

theorem State.Shaped.setFrame (h : s.Shaped) {c : Raster Packed} (hc : c.wf s.w s.h = true) : (s.setFrame c).Shaped :=
  ⟨h.panel, h.pb, by rintro _ ⟨⟩; exact hc, h.pf, h.dm⟩

theorem State.Shaped.setCache (h : s.Shaped) {p : Option (Raster Packed)} (hp : ∀ c, p = some c → c.wf s.w s.h = true) :
    (s.setCache p).Shaped :=
  ⟨h.panel, h.pb, h.cf, hp, h.dm⟩

theorem State.Shaped.setMask (h : s.Shaped) {m : Raster Bool} (hm : m.wf s.w s.h = true) (full any : Bool) :
    (s.setMask m full any).Shaped :=
  ⟨h.panel, h.pb, h.cf, h.pf, by rintro _ ⟨⟩; exact hm⟩

theorem State.Shaped.dropMask (h : s.Shaped) : s.dropMask.Shaped := ⟨h.panel, h.pb, h.cf, h.pf, nofun⟩

theorem State.Shaped.respond (h : s.Shaped) (r : Response) : (s.respond r).Shaped := h.frame h.pb

theorem State.Shaped.applyRst (h : s.Shaped) : s.applyRst.Shaped := ⟨h.panel, h.pb, nofun, nofun, nofun⟩

/-- The conversion of PB has the panel's shape (40_color_converter.md R74). -/
theorem State.Shaped.convertFrame (h : s.Shaped) : (convertFrame s.pb).wf s.w s.h = true := Raster.wf_map _ h.pb

/-- The panel has a pixel at the origin (00_scope.md R5). -/
theorem State.Shaped.panel_pos (h : s.Shaped) : 0 < s.w ∧ 0 < s.h := by
  have hp := h.panel
  simp only [panelWf, Bool.and_eq_true, decide_eq_true_eq] at hp
  omega

/-- Every operation keeps the shape of the stores. -/
theorem Effect.shaped (he : Effect op s t) (h : s.Shaped) : t.Shaped := by
  cases he with
  | refused k hk => rw [recordError_eq]; exact h.frame h.pb
  | answered v hport => exact h.respond _
  | converted hop => exact (h.dropMask.setFrame h.convertFrame).respond _
  | comparedAbsent hop cur hcf hpf => exact (h.setMask (Raster.wf_const _) _ _).respond _
  | comparedPresent hop cur prev hcf hpf =>
    exact (h.setMask (Raster.wf_zip _ (h.cf _ hcf) (h.pf _ hpf)) _ _).respond _
  | committed hop cur hcf =>
    refine (h.dropMask.setCache ?_).respond _
    rintro _ ⟨⟩
    exact h.cf _ hcf
  | invalidated hop => exact (h.dropMask.setCache (p := none) nofun).respond _
  | stored hop pb hwf => exact h.frame (hwf h.pb)

/-! ### The invariants -/

/-- The OR over a mask of the panel's shape is the OR over the panel (10_state.md R23). -/
theorem Raster.anyTrue_iff_of_wf {w h : Nat} {m : Raster Bool} (hm : m.wf w h = true) :
    m.anyTrue = true ↔ ∃ x y, x < w ∧ y < h ∧ m.get? x y = some true := by
  refine (Raster.anyTrue_iff m).trans ⟨?_, ?_⟩
  · rintro ⟨x, y, hxy⟩
    obtain ⟨hx, hy⟩ := (Raster.get?_isSome_iff hm).mp (by rw [hxy]; rfl)
    exact ⟨x, y, hx, hy, hxy⟩
  · rintro ⟨x, y, _, _, hxy⟩
    exact ⟨x, y, hxy⟩

/-- The OR of the mask of ones is 1 on a panel with a pixel. -/
theorem State.Shaped.anyTrue_const (h : s.Shaped) : (Raster.const s.w s.h true).anyTrue = true :=
  (Raster.anyTrue_iff _).mpr ⟨0, 0, by rw [Raster.get?_const, if_pos h.panel_pos]⟩

/-- What the invariants do not look at, as `State.Shaped.frame`, with the flags now fixed. -/
theorem State.Inv.frame (h : s.Inv) {pb : Raster Pixel} (hpb : pb.wf s.w s.h = true) {err : Option Cause}
    {pending : List Request} {response : Option Response} {draws : Nat} :
    ({ s with pb, err, pending, response, draws } : State).Inv :=
  ⟨h.shaped.frame hpb, h.maskNeedsFrame, h.fullIsAbsent, h.noMaskNoFlags, h.fullIsAllDirty, h.maskIsExact, h.anyIsOr,
    h.cacheNeedsFrame⟩

theorem State.Inv.respond (h : s.Inv) (r : Response) : (s.respond r).Inv := h.frame h.shaped.pb

theorem State.Inv.setPending (h : s.Inv) (rest : List Request) : (s.setPending rest).Inv := h.frame h.shaped.pb

/-- Without a mask only (a), (d) and (j) say anything. -/
theorem State.Inv.of_noMask (h : s.Shaped) (hdm : s.dm = none) (hfull : s.full = false) (hany : s.any = false)
    (hcache : s.pfv = true → s.cfv = true) : s.Inv := by
  have hdmv : s.dmv = false := by simp [State.dmv, hdm]
  exact {
    shaped := h
    maskNeedsFrame := by simp [hdmv]
    fullIsAbsent := by simp [hdmv]
    noMaskNoFlags := fun _ => ⟨hfull, hany⟩
    fullIsAllDirty := by simp [hfull]
    maskIsExact := by simp [hdmv]
    anyIsOr := by simp [hdmv]
    cacheNeedsFrame := hcache }

/-- After the reset input the invariants hold whatever they did before. -/
theorem State.Shaped.inv_applyRst (h : s.Shaped) : s.applyRst.Inv := .of_noMask h.applyRst rfl rfl rfl nofun

/-- The mask of ones is what (e) and (g) ask while the cache is absent (41_frame_comparator.md R82). -/
theorem State.Shaped.inv_setMask_absent (h : s.Shaped) {cur : Raster Packed} (hcf : s.cf = some cur) (hpf : s.pf = none) :
    (s.setMask (Raster.const s.w s.h true) true true).Inv := by
  have hcfv : s.cfv = true := by simp [State.cfv, hcf]
  have hpfv : s.pfv = false := by simp [State.pfv, hpf]
  have hones : ∀ x y, x < s.w → y < s.h → (Raster.const s.w s.h true).get? x y = some true := fun x y hx hy => by
    rw [Raster.get?_const, if_pos ⟨hx, hy⟩]
  exact {
    shaped := h.setMask (Raster.wf_const _) _ _
    maskNeedsFrame := fun _ => hcfv
    fullIsAbsent := fun _ => by simp [State.pfv, hpf]
    noMaskNoFlags := nofun
    fullIsAllDirty := fun _ => ⟨rfl, hones⟩
    maskIsExact := fun _ hp => absurd (hp.symm.trans hpfv) nofun
    anyIsOr := fun _ => ⟨fun _ => (Raster.anyTrue_iff_of_wf (Raster.wf_const _)).mp h.anyTrue_const, fun _ => rfl⟩
    cacheNeedsFrame := fun _ => hcfv }

/-- The elementwise difference with its OR is what (f) and (g) ask while the cache is present (41_frame_comparator.md R80, R82). -/
theorem State.Shaped.inv_setMask_present (h : s.Shaped) {cur prev : Raster Packed} (hcf : s.cf = some cur)
    (hpf : s.pf = some prev) :
    (s.setMask (diffFrame cur prev) false (diffFrame cur prev).anyTrue).Inv := by
  have hcfv : s.cfv = true := by simp [State.cfv, hcf]
  have hwf : (diffFrame cur prev).wf s.w s.h = true := Raster.wf_zip _ (h.cf _ hcf) (h.pf _ hpf)
  exact {
    shaped := h.setMask hwf _ _
    maskNeedsFrame := fun _ => hcfv
    fullIsAbsent := fun _ => by simp [State.pfv, hpf]
    noMaskNoFlags := nofun
    fullIsAllDirty := nofun
    maskIsExact := fun _ _ x y hx hy => by
      obtain ⟨u, hu⟩ := Raster.exists_get? (h.cf _ hcf) hx hy
      obtain ⟨v, hv⟩ := Raster.exists_get? (h.pf _ hpf) hx hy
      refine ⟨u, v, ?_, ?_, ?_⟩
      · simp [State.cfAt, hcf, hu]
      · simp [State.pfAt, hpf, hv]
      · simp [State.dmAt, diffFrame, Raster.get?_zip, hu, hv, diff]
    anyIsOr := fun _ => Raster.anyTrue_iff_of_wf hwf
    cacheNeedsFrame := fun _ => hcfv }

/-- Every operation keeps the invariants. -/
theorem Effect.inv (he : Effect op s t) (h : s.Inv) : t.Inv := by
  have hshaped := he.shaped h.shaped
  cases he with
  | refused k hk => rw [recordError_eq]; exact h.frame h.shaped.pb
  | answered v hport => exact h.respond _
  | converted hop => exact .of_noMask hshaped rfl rfl rfl fun _ => rfl
  | comparedAbsent hop cur hcf hpf => exact (h.shaped.inv_setMask_absent hcf hpf).respond _
  | comparedPresent hop cur prev hcf hpf => exact (h.shaped.inv_setMask_present hcf hpf).respond _
  | committed hop cur hcf => exact .of_noMask hshaped rfl rfl rfl fun _ => by simp [State.cfv, hcf]
  | invalidated hop => exact .of_noMask hshaped rfl rfl rfl nofun
  | stored hop pb hwf => exact h.frame (hwf h.shaped.pb)

/-- Settles O37: the cases of a step, each operation by `Effect.inv` and the reset input by `State.Shaped.inv_applyRst`. -/
theorem stepKeepsTheInvariants : Obligations.StepKeepsTheInvariants := by
  intro s t h hs
  cases step_effect hs with
  | waited hp => exact h
  | operated op rest hp he => exact he.inv (h.setPending rest)
  | reset hr rest => exact (h.setPending rest).shaped.inv_applyRst
  | resetFreePb hr rest =>
    exact ((h.setPending rest).shaped.frame (Raster.wf_ofFn _)).inv_applyRst

/-- The opaque panel size is a legal one (00_scope.md R5). -/
theorem panelWf_config : panelWf Config.width Config.height = true := by
  simp [panelWf, Config.width, Config.height]

theorem reset_shaped : State.reset.Shaped := ⟨panelWf_config, Raster.wf_ofFn _, nofun, nofun, nofun⟩

/-- Settles O36: at power-on no store but PB holds a value. -/
theorem resetMeetsTheInvariants : Obligations.ResetMeetsTheInvariants := .of_noMask reset_shaped rfl rfl rfl nofun

/-! ### STATUS -/

/-- Bits 4:0 of STATUS are the five flags (10_state.md R25). -/
theorem status_flagBits (s : State) :
    s.status.extractLsb' 0 5 =
      BitVec.ofBool s.any ++ BitVec.ofBool s.full ++ BitVec.ofBool s.dmv ++ BitVec.ofBool s.pfv ++ BitVec.ofBool s.cfv := by
  apply BitVec.eq_of_getLsbD_eq
  intro i hi
  simp only [State.status, BitVec.getLsbD_extractLsb', hi, BitVec.getLsbD_append]
  interval_cases i <;> simp

/-- Settles O38: the invariants leave, by DMV and PFV, the six rows of the table of 10_state.md R29 (k). -/
theorem statusTakesSixValues : Obligations.StatusTakesSixValues := by
  intro s h
  rw [status_flagBits]
  cases hdmv : s.dmv with
  | false =>
    obtain ⟨hfull, hany⟩ := h.noMaskNoFlags hdmv
    rw [hfull, hany]
    cases hpfv : s.pfv with
    | false => cases s.cfv <;> decide
    | true =>
      rw [h.cacheNeedsFrame hpfv]
      decide
  | true =>
    rw [h.maskNeedsFrame hdmv, h.fullIsAbsent hdmv]
    cases hpfv : s.pfv with
    | false =>
      have hfull : s.full = true := by rw [h.fullIsAbsent hdmv, hpfv]; rfl
      rw [(h.fullIsAllDirty hfull).1]
      decide
    | true => cases s.any <;> decide

/-! ### The flag table -/

/-- `t` has the five flags of `s`. -/
def State.SameFlags (s t : State) : Prop :=
  t.cfv = s.cfv ∧ t.pfv = s.pfv ∧ t.dmv = s.dmv ∧ t.full = s.full ∧ t.any = s.any

theorem State.SameFlags.respond (h : State.SameFlags s t) (r : Response) : State.SameFlags s (t.respond r) := h

theorem State.SameFlags.setBuffer (s : State) (pb : Raster Pixel) : State.SameFlags s (s.setBuffer pb) :=
  ⟨rfl, rfl, rfl, rfl, rfl⟩

theorem State.SameFlags.recordError (s : State) (k : Cause) : State.SameFlags s (s.recordError k) := by
  rw [recordError_eq]
  exact ⟨rfl, rfl, rfl, rfl, rfl⟩

/-- A refused operation changes no flag (10_state.md R24). -/
theorem Effect.sameFlags_of_err {k : Cause} (he : Effect op s t) (hr : t.response = some (.err k)) : State.SameFlags s t := by
  cases he with
  | refused k hk => exact (State.SameFlags.recordError s k).respond _
  | answered | converted | comparedAbsent | comparedPresent | committed | invalidated | stored => cases hr

/-- No port transaction changes a flag (10_state.md R24). -/
theorem Effect.sameFlags_of_port {p : Port} (he : Effect (.port p) s t) : State.SameFlags s t := by
  cases he with
  | refused k hk => exact (State.SameFlags.recordError s k).respond _
  | answered v hport => exact ⟨rfl, rfl, rfl, rfl, rfl⟩
  | stored hop pb hwf => exact (State.SameFlags.setBuffer s pb).respond _
  | converted hop | comparedAbsent hop | comparedPresent hop | committed hop | invalidated hop =>
    exact absurd hop (not_isCommand_port p _)

/-- The row of `COMPARE` (10_state.md R24). -/
theorem execCompare_flags (hc : exec .compare s = .next t) (hcfv : s.cfv = true) (h : s.Shaped) :
    t.cfv = true ∧ t.pfv = s.pfv ∧ t.dmv = true ∧ t.full = !s.pfv ∧ ∃ m, t.dm = some m ∧ t.any = m.anyTrue := by
  obtain ⟨cur, hcf⟩ := Option.isSome_iff_exists.mp hcfv
  cases hpf : s.pf with
  | none =>
    cases (execCompare_absent hcf hpf).symm.trans hc
    exact ⟨hcfv, rfl, rfl, by simp [State.pfv, hpf], _, rfl, h.anyTrue_const.symm⟩
  | some prev =>
    cases (execCompare_present hcf hpf).symm.trans hc
    exact ⟨hcfv, rfl, rfl, by simp [State.pfv, hpf], _, rfl, rfl⟩

/-- The row of `COMMIT` (10_state.md R24). -/
theorem execCommit_flags (hc : exec .commit s = .next t) (hcfv : s.cfv = true) :
    t.cfv = true ∧ t.pfv = true ∧ t.dmv = false ∧ t.full = false ∧ t.any = false := by
  obtain ⟨cur, hcf⟩ := Option.isSome_iff_exists.mp hcfv
  cases (execCommit_frame hcf).symm.trans hc
  exact ⟨hcfv, rfl, rfl, rfl, rfl⟩

/-- The step that takes a reset: the reset state over some PB. -/
theorem step_reset (hr : s.nextIsReset) (hs : step s = .next t) :
    ∃ rest, t = (s.setPending rest).applyRst ∨ t = (s.setPending rest).freePb.applyRst := by
  cases step_effect hs with
  | waited hp => rcases hr with hr | ⟨op, hr⟩ <;> simp [State.nextIs, hp] at hr
  | operated op rest hp he => rcases hr with hr | ⟨op, hr⟩ <;> simp [State.nextIs, hp] at hr
  | reset _ rest => exact ⟨rest, .inl rfl⟩
  | resetFreePb _ rest => exact ⟨rest, .inr rfl⟩

/-- Settles O29, row by row of the table. -/
theorem flagsFollowTheTable : Obligations.FlagsFollowTheTable := by
  intro s t
  refine ⟨?convert, execCompare_flags, execCommit_flags, ?invalidate, ?fill, ?port, ?refused, ?reset⟩
  case convert => rintro ⟨⟩; exact ⟨rfl, rfl, rfl, rfl, rfl⟩
  case invalidate => rintro ⟨⟩; exact ⟨rfl, rfl, rfl, rfl, rfl⟩
  case fill => rintro r g b ⟨⟩; exact (State.SameFlags.setBuffer s _).respond _
  case port => exact fun p ht => (effect_port ht).sameFlags_of_port
  case refused => exact fun op k ht hr => (execOperation_effect ht).sameFlags_of_err hr
  case reset =>
    intro hr hs
    obtain ⟨rest, rfl | rfl⟩ := step_reset hr hs <;> exact ⟨rfl, rfl, rfl, rfl, rfl⟩

/-! ### Where CF comes from -/

/-- A step keeps CF, converts PB into it, or leaves it without a value. -/
theorem step_cf (hs : step s = .next t) : t.cf = s.cf ∨ t.cf = some (convertFrame s.pb) ∨ t.cf = none := by
  cases step_effect hs with
  | waited | reset | resetFreePb => simp
  | operated op rest hp he => cases he <;> simp

/-- Settles O39, by induction on the length of the run: the last step keeps CF or converts PB into it. -/
theorem frameWasConvertedEarlier : Obligations.FrameWasConvertedEarlier := by
  intro n
  induction n with
  | zero =>
    intro s t c hrun hc
    cases hrun
    exact .inl hc
  | succ n ih =>
    intro s t c hrun hc
    obtain ⟨u, hu, hs⟩ := run_succ.mp hrun
    rcases step_cf hs with hkeep | hconv | hnone
    · rcases ih s u c hu (hkeep.symm.trans hc) with hstart | ⟨m, v, hm, hv, hcv⟩
      · exact .inl hstart
      · exact .inr ⟨m, v, by omega, hv, hcv⟩
    · exact .inr ⟨n, u, by omega, hu, Option.some.inj (hc.symm.trans hconv)⟩
    · cases hc.symm.trans hnone

/-! ### Where PF comes from -/

/-- The step that takes `COMMIT` executes it. -/
theorem step_commit (hc : s.nextIs (commandRequest .commit)) : ∃ rest, step s = exec .commit (s.setPending rest) := by
  obtain ⟨rest, hp⟩ := List.head?_eq_some_iff.mp hc
  exact ⟨rest, (step_accept hp).trans (execOperation_command _ decode_encode_commit)⟩

/-- Any other step keeps PF, and CF present, or leaves PF without a value: only `COMMIT` gives PF one (42_cache_control.md R87). -/
theorem step_pf_of_not_commit (hc : ¬s.nextIs (commandRequest .commit)) (hs : step s = .next t) :
    (t.pf = s.pf ∧ (s.cfv = true → t.cfv = true)) ∨ t.pf = none := by
  cases step_effect hs with
  | waited => exact .inl ⟨rfl, id⟩
  | reset | resetFreePb => exact .inr rfl
  | operated op rest hp he =>
    cases he with
    | committed hop cur hcf =>
      refine absurd ?_ hc
      rw [State.nextIs, hp, isCommand_commit_iff.mp hop]
      rfl
    | invalidated => exact .inr rfl
    | converted => exact .inl ⟨rfl, fun _ => rfl⟩
    | refused | answered | comparedAbsent | comparedPresent | stored => exact .inl (by simp [State.cfv])

/-- What CF held at the most recent `COMMIT` among the first `n` steps from `s`. -/
def State.LastCommitted (s : State) (n : Nat) (p : Raster Packed) : Prop :=
  ∃ (m : Nat) (u : State), m < n ∧ core.run m s = .next u ∧ u.nextIs (commandRequest .commit) ∧ u.cf = some p ∧
    ∀ (m' : Nat) (u' : State), m < m' → m' < n → core.run m' s = .next u' → ¬u'.nextIs (commandRequest .commit)

variable {n : Nat} {u : State} {p : Raster Packed}

theorem State.LastCommitted.of_commit (hu : core.run n s = .next u) (hc : u.nextIs (commandRequest .commit))
    (hcf : u.cf = some p) : s.LastCommitted (n + 1) p :=
  ⟨n, u, by omega, hu, hc, hcf, fun m' _ hlt hle => by omega⟩

theorem State.LastCommitted.succ (h : s.LastCommitted n p) (hu : core.run n s = .next u)
    (hc : ¬u.nextIs (commandRequest .commit)) : s.LastCommitted (n + 1) p := by
  obtain ⟨m, v, hm, hv, hvc, hcf, hlast⟩ := h
  refine ⟨m, v, by omega, hv, hvc, hcf, fun m' u' hlt hle hu' => ?_⟩
  obtain hm' | rfl : m' < n ∨ m' = n := by omega
  · exact hlast m' u' hlt hm' hu'
  · cases hu.symm.trans hu'
    exact hc

/-- A present PF is the first state's, or the most recent `COMMIT`'s with CF present ever since; so a refused `COMMIT` cannot come
between. -/
theorem pf_of_run (hrun : core.run n s = .next t) (hp : t.pf = some p) :
    s.pf = some p ∨ (t.cfv = true ∧ s.LastCommitted n p) := by
  induction n generalizing t with
  | zero =>
    cases hrun
    exact .inl hp
  | succ n ih =>
    obtain ⟨u, hu, hs⟩ := run_succ.mp hrun
    by_cases hc : u.nextIs (commandRequest .commit)
    · obtain ⟨rest, hcommit⟩ := step_commit hc
      have hexec := hcommit.symm.trans hs
      cases hcf : u.cf with
      | none =>
        cases (execCommit_noFrame (s := u.setPending rest) hcf).symm.trans hexec
        refine (ih hu (by simpa using hp)).imp_right fun ⟨hcfv, _⟩ => ?_
        simp [State.cfv, hcf] at hcfv
      | some cur =>
        cases (execCommit_frame (s := u.setPending rest) hcf).symm.trans hexec
        cases hp
        exact .inr ⟨by simp [State.cfv, hcf], .of_commit hu hc hcf⟩
    · rcases step_pf_of_not_commit hc hs with ⟨hkeep, hcfv⟩ | hnone
      · exact (ih hu (hkeep.symm.trans hp)).imp_right fun ⟨hu_cfv, hlast⟩ => ⟨hcfv hu_cfv, hlast.succ hu hc⟩
      · cases hp.symm.trans hnone

/-- Settles O40, from the stronger `pf_of_run`. -/
theorem cacheIsTheLatestCommit : Obligations.CacheIsTheLatestCommit := fun _ _ _ _ hrun hp =>
  (pf_of_run hrun hp).imp_right And.right

end Sys2Proof.Machine
end

section
/-! SUPPORT. Proofs of the family 20_memory.md: a step of one request, which requests write PB, CF and DM, the port transactions, that
an operation repeated changes nothing, and that the host's update is a run of the block. -/

namespace Sys2Proof.Machine

variable {α : Type} {s t : State} {op : Operation} {x y : Coord}

/-! ### One step -/

/-- A presented request is taken off again. -/
theorem step_present (s : State) (q : Request) : step (s.present q) = accept q s := step_accept (present_pending s q)

theorem decode_of_decodeTableWord {nbits w : Nat} {i : Instr} (hd : decodeTableWord nbits w = some i) :
    decode (tableWord nbits w) = .ok i := by
  unfold decodeTableWord at hd
  split at hd
  · cases hw : decode (tableWord nbits w) with
    | error e => simp [hw, Except.toOption] at hd
    | ok j => simpa [hw, Except.toOption] using hd
  · cases hd

/-- Settles O5, from `step_accept` and `execOperation_command`. -/
theorem stepRunsDecodedCommand : Obligations.StepRunsDecodedCommand :=
  ⟨fun _ w _ _ hp hd => (step_accept hp).trans (execOperation_command w hd),
    fun s _ _ _ hd => (step_present s _).trans (execOperation_command _ (decode_of_decodeTableWord hd))⟩

/-- Settles O6, from `step_accept` and `step_idle`. -/
theorem stepRunsPortOrWaits : Obligations.StepRunsPortOrWaits :=
  ⟨fun _ _ _ hp => step_accept hp, fun _ hp => step_idle hp⟩

/-! ### The stores' writers -/

theorem nextIs_of_pending {q : Request} {rest : List Request} (hp : s.pending = q :: rest) : s.nextIs q := by
  simp [State.nextIs, hp]

/-- The host presents a command by its word only (30_encoding.md R67). -/
theorem nextIs_of_isCommand {i : Instr} {rest : List Request} (hp : s.pending = .operation op :: rest) (hop : isCommand op i) :
    s.nextIs (commandRequest i) := by
  obtain ⟨w, rfl, hd⟩ := hop
  rw [commandRequest, encode_of_decode hd]
  exact nextIs_of_pending hp

/-- The reset input leaves PB, unless it abandons an operation. -/
theorem step_reset_pb (hr : s.nextIsReset) (hs : step s = .next t) : t.pb = s.pb ∨ ∃ op, s.nextIs (.rstDuring op) := by
  rcases hr with hr | hr
  · obtain ⟨rest, hp⟩ := List.head?_eq_some_iff.mp hr
    cases (step_accept hp).symm.trans hs
    exact .inl rfl
  · exact .inr hr

theorem step_pb_of_ne (hs : step s = .next t) (hne : t.pb ≠ s.pb) :
    (∃ r g b, s.nextIs (commandRequest (.fill r g b))) ∨ (∃ x y r g b, s.nextIs (.operation (.port (.pbw x y r g b)))) ∨
      (∃ h w n data, s.nextIs (.operation (.port (.pbl h w n data)))) ∨ ∃ op, s.nextIs (.rstDuring op) := by
  cases step_effect hs with
  | waited => exact absurd rfl hne
  | reset hr | resetFreePb hr => exact .inr (.inr (.inr ((step_reset_pb hr hs).resolve_left hne)))
  | operated op rest hp he =>
    cases he with
    | refused | answered | converted | comparedAbsent | comparedPresent | committed | invalidated => simp at hne
    | stored hop =>
      rcases hop with ⟨r, g, b, hop⟩ | ⟨x, y, r, g, b, rfl⟩ | ⟨h, w, n, data, rfl⟩
      · exact .inl ⟨r, g, b, nextIs_of_isCommand hp hop⟩
      · exact .inr (.inl ⟨x, y, r, g, b, nextIs_of_pending hp⟩)
      · exact .inr (.inr (.inl ⟨h, w, n, data, nextIs_of_pending hp⟩))

theorem step_cf_of_ne (hs : step s = .next t) (hne : t.cf ≠ s.cf) :
    (s.nextIs (commandRequest .convert) ∧ t.cf = some (convertFrame s.pb)) ∨ (s.nextIsReset ∧ t.cf = none) := by
  cases step_effect hs with
  | waited => exact absurd rfl hne
  | reset hr | resetFreePb hr => exact .inr ⟨hr, rfl⟩
  | operated op rest hp he =>
    cases he with
    | converted hop => exact .inl ⟨nextIs_of_isCommand hp hop, rfl⟩
    | refused | answered | comparedAbsent | comparedPresent | committed | invalidated | stored => simp at hne

theorem step_dm_of_ne (hs : step s = .next t) (hne : t.dm ≠ s.dm) :
    s.nextIs (commandRequest .compare) ∨
      ((s.nextIs (commandRequest .convert) ∨ s.nextIs (commandRequest .commit) ∨ s.nextIs (commandRequest .invalidate) ∨
        s.nextIsReset) ∧ t.dm = none) := by
  cases step_effect hs with
  | waited => exact absurd rfl hne
  | reset hr | resetFreePb hr => exact .inr ⟨.inr (.inr (.inr hr)), rfl⟩
  | operated op rest hp he =>
    cases he with
    | comparedAbsent hop | comparedPresent hop => exact .inl (nextIs_of_isCommand hp hop)
    | converted hop => exact .inr ⟨.inl (nextIs_of_isCommand hp hop), rfl⟩
    | committed hop => exact .inr ⟨.inr (.inl (nextIs_of_isCommand hp hop)), rfl⟩
    | invalidated hop => exact .inr ⟨.inr (.inr (.inl (nextIs_of_isCommand hp hop))), rfl⟩
    | refused | answered | stored => simp at hne

/-- Settles O21, store by store over the cases of a step. -/
theorem storesHaveTheirWriters : Obligations.StoresHaveTheirWriters := fun _ _ hs =>
  ⟨step_pb_of_ne hs, step_cf_of_ne hs, step_dm_of_ne hs⟩

/-! ### Writes of PB -/

/-- `raise` leaves what the spec writes out (60_exceptions.md R133). -/
theorem raise_refusedWith (k : Cause) (s : State) : ∃ t, raise k s = .next t ∧ State.RefusedWith k s t :=
  ⟨_, raise_eq k, by rw [recordError_eq]; rfl⟩

/-- Settles O22: the write reads back at its coordinate and nowhere else. -/
theorem pbwWritesOnePixel : Obligations.PbwWritesOnePixel := by
  intro s x y r g b
  refine ⟨fun ho => ?off, fun hx hy hshaped => ?on⟩
  case off =>
    simp only [execPort, execPbw_outside r g b ((outside_iff x y).mpr ho)]
    exact raise_refusedWith .range s
  case on =>
    obtain ⟨old, hold⟩ := Raster.exists_get? hshaped.pb hx hy
    refine ⟨_, (execPbw_inside r g b ((inside_iff x y).mpr ⟨hx, hy⟩)).trans complete_eq, rfl, ?same, fun x' y' hne => ?other,
      rfl, rfl, rfl, rfl, rfl, rfl, rfl, rfl, rfl, rfl⟩
    case same => simp [Raster.get?_set_self, hold]
    case other => exact Raster.get?_set_other _ _ (by tauto)

/-- The pixel of a bulk load's data at a row and column (20_memory.md R45). -/
theorem rasterOfData_get? {h w n : Nat} (hn : n = 3) (data : Vector (Vector (Vector Byte n) w) h) (y : Fin h) (x : Fin w) :
    (rasterOfData hn data).get? x.val y.val = some (pixelOfChannels hn data[y][x]) := by
  simp [Raster.get?, rasterOfData]

theorem pixelOfChannels_channels {n : Nat} (hn : n = 3) (v : Vector Byte n) :
    v[0]? = some (pixelOfChannels hn v).r ∧ v[1]? = some (pixelOfChannels hn v).g ∧ v[2]? = some (pixelOfChannels hn v).b := by
  subst hn
  simp [pixelOfChannels]

/-- Settles O24, by whether the declared shape is the panel's. -/
theorem pblReplacesTheBuffer : Obligations.PblReplacesTheBuffer := by
  intro s h w n data
  refine ⟨fun hne => ?wrong, fun hh hw hn => ?right⟩
  case wrong =>
    have hno : ¬(h.toNat = s.h ∧ w.toNat = s.w ∧ n.toNat = 3) := by tauto
    simp only [execPort, execPbl_noShape data hno]
    exact raise_refusedWith .shape s
  case right =>
    exact ⟨_, (execPbl_shape data ⟨hh, hw, hn⟩).trans complete_eq, rfl,
      fun y x => ⟨_, rasterOfData_get? hn data y x, pixelOfChannels_channels hn data[y][x]⟩,
      rasterOfData_wf hn hw hh data, rfl, rfl, rfl, rfl, rfl, rfl, rfl, rfl, rfl, rfl⟩

/-! ### Reads -/

/-- The number of `PBR`'s data (20_memory.md R35, R44). -/
theorem pixelData_toNat (p : Pixel) : (pixelData p).toNat = p.r.toNat * 65536 + p.g.toNat * 256 + p.b.toNat := by
  have hr := p.r.isLt
  have hg := p.g.isLt
  have hb := p.b.isLt
  simp only [pixelData, pixelWord, BitVec.toNat_setWidth, BitVec.toNat_append]
  rw [← Nat.shiftLeft_add_eq_or_of_lt hg, ← Nat.shiftLeft_add_eq_or_of_lt hb]
  simp only [Nat.shiftLeft_eq]
  omega

theorem packedData_toNat (v : Packed) : (packedData v).toNat = v.toNat := by
  simp only [packedData, BitVec.toNat_setWidth]
  omega

theorem bitData_eq (v : Bool) : bitData v = if v then 1 else 0 := by cases v <;> rfl

/-- Settles O23, by whether the coordinate is on the panel. -/
theorem pbrReadsOnePixel : Obligations.PbrReadsOnePixel := by
  intro s x y
  refine ⟨fun ho => ?off, fun hx hy hshaped => ?on⟩
  case off =>
    simp only [execPort, execPbr_outside ((outside_iff x y).mpr ho)]
    exact raise_refusedWith .range s
  case on =>
    obtain ⟨p, hp⟩ := Raster.exists_get? hshaped.pb hx hy
    exact ⟨p, pixelData p, hp, pixelData_toNat p,
      (execPbr_inside ((inside_iff x y).mpr ⟨hx, hy⟩)).trans (readElement_of_get? pixelData hp)⟩

section OptionalStore

variable {store : Option (Raster α)} (data : α → Word)

theorem readOptional_refused_range (ho : s.w ≤ x.toNat ∨ s.h ≤ y.toNat) :
    ∃ t, readOptional store x y data s = .next t ∧ State.RefusedWith .range s t := by
  rw [readOptional_outside data ((outside_iff x y).mpr ho)]
  exact raise_refusedWith .range s

theorem readOptional_refused_invalid (hx : x.toNat < s.w) (hy : y.toNat < s.h) (hnone : store.isSome = false) :
    ∃ t, readOptional store x y data s = .next t ∧ State.RefusedWith .invalid s t := by
  rw [Option.isSome_eq_false_iff, Option.isNone_iff_eq_none] at hnone
  rw [hnone, readOptional_noValue data ((inside_iff x y).mpr ⟨hx, hy⟩)]
  exact raise_refusedWith .invalid s

theorem readOptional_answers (hx : x.toNat < s.w) (hy : y.toNat < s.h) (hsome : store.isSome = true)
    (hwf : ∀ r, store = some r → r.wf s.w s.h = true) :
    ∃ v, (store.bind fun r => r.get? x.toNat y.toNat) = some v ∧
      readOptional store x y data s = .next { s with response := some (.data (data v)) } := by
  obtain ⟨r, rfl⟩ := Option.isSome_iff_exists.mp hsome
  obtain ⟨v, hv⟩ := Raster.exists_get? (hwf r rfl) hx hy
  exact ⟨v, hv, readOptional_value data ((inside_iff x y).mpr ⟨hx, hy⟩) hv⟩

end OptionalStore

/-- Settles O25, with CF for the store. -/
theorem cfrReadsTheFrame : Obligations.CfrReadsTheFrame := by
  intro s x y
  refine ⟨readOptional_refused_range _, readOptional_refused_invalid _, fun hx hy hcfv hshaped => ?_⟩
  obtain ⟨v, hv, hread⟩ := readOptional_answers packedData hx hy hcfv hshaped.cf
  exact ⟨v, packedData v, hv, packedData_toNat v, hread⟩

/-- Settles O26, with PF for the store. -/
theorem pfrReadsTheCache : Obligations.PfrReadsTheCache := by
  intro s x y
  refine ⟨readOptional_refused_range _, readOptional_refused_invalid _, fun hx hy hpfv hshaped => ?_⟩
  obtain ⟨v, hv, hread⟩ := readOptional_answers packedData hx hy hpfv hshaped.pf
  exact ⟨v, packedData v, hv, packedData_toNat v, hread⟩

/-- Settles O27, with DM for the store. -/
theorem dmrReadsTheMask : Obligations.DmrReadsTheMask := by
  intro s x y
  refine ⟨readOptional_refused_range _, readOptional_refused_invalid _, fun hx hy hdmv hshaped => ?_⟩
  obtain ⟨v, hv, hread⟩ := readOptional_answers bitData hx hy hdmv hshaped.dm
  exact ⟨v, hv, bitData_eq v ▸ hread⟩


/-! ### STATUS -/

/-- The five flag bits of STATUS (10_state.md R25). -/
theorem status_flags (s : State) : s.status.getLsbD 0 = s.cfv ∧ s.status.getLsbD 1 = s.pfv ∧ s.status.getLsbD 2 = s.dmv ∧
    s.status.getLsbD 3 = s.full ∧ s.status.getLsbD 4 = s.any := by
  simp only [State.status, BitVec.getLsbD_append]
  simp

/-- STATUS above its flags: three zeros, ERR in bits 11:8, then zeros (10_state.md R25). -/
theorem status_getLsbD_add_five (s : State) (i : Nat) :
    s.status.getLsbD (i + 5) = if i < 3 then false else s.errCode.getLsbD (i - 3) := by
  simp only [State.status, BitVec.getLsbD_append]
  by_cases hi : i < 3
  · simp [hi]
  · simpa [hi] using BitVec.lt_of_getLsbD

/-- Settles O28: the flag bits, then the bits above them. -/
theorem strReadsStatus : Obligations.StrReadsStatus := by
  intro s
  obtain ⟨hcfv, hpfv, hdmv, hfull, hany⟩ := status_flags s
  refine ⟨s.status, rfl, hcfv, hpfv, hdmv, hfull, hany, fun i h5 h7 => ?zeros, ?err, fun i h12 => ?high⟩
  case zeros =>
    obtain ⟨j, rfl⟩ := Nat.exists_eq_add_of_le' h5
    rw [status_getLsbD_add_five, if_pos (by omega)]
  case err =>
    apply BitVec.eq_of_getLsbD_eq
    intro i hi
    rw [BitVec.getLsbD_extractLsb', show 8 + i = (i + 3) + 5 by omega, status_getLsbD_add_five, if_neg (by omega)]
    simp [hi]
  case high =>
    obtain ⟨j, rfl⟩ := Nat.exists_eq_add_of_le' h12
    rw [status_getLsbD_add_five s (j + 7), if_neg (by omega)]
    exact BitVec.getLsbD_of_ge _ _ (by omega)

/-! ### Operations repeated -/

/-- A port transaction that answers data is a read (20_memory.md R40). -/
theorem execPort_data {p : Port} {v : Word} (hp : execPort p s = .next t) (hv : t.response = some (.data v)) :
    t = s.respond (.data v) := by
  cases effect_port hp with
  | answered w hport =>
    cases hv
    rfl
  | refused | converted | comparedAbsent | comparedPresent | committed | invalidated | stored => cases hv

theorem Raster.set_set (r : Raster α) (x y : Nat) (v : α) : (r.set x y v).set x y v = r.set x y v := by
  simp [Raster.set, List.modify_modify_eq, Function.comp_def]

/-- The second refusal with one cause finds ERR and the response written. -/
theorem raise_repeat {k : Cause} (hr : raise k s = .next t) : raise k t = .next t := by
  cases hr
  simp [raise_eq, recordError_eq, State.respond]

/-- A meaning that a condition refuses is refused again, where the refusal leaves the condition. -/
theorem refusal_repeat {f : State → Result} {k : Cause} (refuses : State → Prop) (hf : ∀ {s}, refuses s → f s = raise k s)
    (hkeep : refuses s → refuses ((s.recordError k).respond (.err k))) (hs : refuses s) (ht : f s = .next t) :
    f t = .next t := by
  have hr := (hf hs).symm.trans ht
  have hagain := raise_repeat hr
  cases hr
  exact (hf (hkeep hs)).trans hagain

/-- A read of a store of the state, repeated. -/
theorem readOptional_repeat {store : State → Option (Raster α)} (data : α → Word)
    (hrespond : ∀ s r, store (s.respond r) = store s) (herr : ∀ s k, store (s.recordError k) = store s)
    (hread : readOptional (store s) x y data s = .next t) : readOptional (store t) x y data t = .next t := by
  rcases readOptional_next hread with ⟨ho, _⟩ | ⟨ho, hnone, _⟩ | ⟨r, v, ho, hr, hv, rfl⟩
  · exact refusal_repeat (f := fun s => readOptional (store s) x y data s) (fun s => s.outside x y = true)
      (readOptional_outside data) (by simp) ho hread
  · refine refusal_repeat (f := fun s => readOptional (store s) x y data s) (k := .invalid)
      (fun s => s.outside x y = false ∧ store s = none) (fun ⟨ho, hnone⟩ => ?_) (by simp [hrespond, herr]) ⟨ho, hnone⟩ hread
    rw [hnone, readOptional_noValue data ho]
  · rw [hrespond, hr]
    exact readOptional_value data ho hv

theorem exec_repeat {i : Instr} (hi : exec i s = .next t) : exec i t = .next t := by
  cases i with
  | convert | invalidate | fill =>
    cases hi
    rfl
  | compare =>
    cases hcf : s.cf with
    | none => exact refusal_repeat (fun s => s.cf = none) execCompare_noFrame (by simp) hcf hi
    | some cur =>
      cases hpf : s.pf with
      | none =>
        cases (execCompare_absent hcf hpf).symm.trans hi
        exact execCompare_absent hcf hpf
      | some prev =>
        cases (execCompare_present hcf hpf).symm.trans hi
        exact execCompare_present hcf hpf
  | commit =>
    cases hcf : s.cf with
    | none => exact refusal_repeat (fun s => s.cf = none) execCommit_noFrame (by simp) hcf hi
    | some cur =>
      cases (execCommit_frame hcf).symm.trans hi
      exact execCommit_frame hcf

/-- A pixel written again is the pixel written. -/
theorem execPbw_repeat {r g b : Byte} (hp : execPbw x y r g b s = .next t) : execPbw x y r g b t = .next t := by
  cases ho : s.outside x y with
  | true => exact refusal_repeat (fun s => s.outside x y = true) (execPbw_outside r g b) (by simp) ho hp
  | false =>
    cases (execPbw_inside r g b ho).symm.trans hp
    rw [execPbw_inside r g b (by simpa using ho)]
    simp only [respond_pb, setBuffer_pb, Raster.set_set]
    rfl

theorem execPbr_repeat (hp : execPbr x y s = .next t) : execPbr x y t = .next t := by
  cases ho : s.outside x y with
  | true => exact refusal_repeat (fun s => s.outside x y = true) execPbr_outside (by simp) ho hp
  | false =>
    obtain ⟨v, hv, rfl⟩ := readElement_next ((execPbr_inside ho).symm.trans hp)
    exact (execPbr_inside (by simpa using ho)).trans (readElement_of_get? pixelData hv)

theorem execPbl_repeat {h w n : BitVec 17} {data : Vector (Vector (Vector Byte n.toNat) w.toNat) h.toNat}
    (hp : execPbl h w n data s = .next t) : execPbl h w n data t = .next t := by
  by_cases hs : h.toNat = s.h ∧ w.toNat = s.w ∧ n.toNat = 3
  · cases (execPbl_shape data hs).symm.trans hp
    exact execPbl_shape (s := (s.setBuffer (rasterOfData hs.2.2 data)).respond .ok) data hs
  · exact refusal_repeat (fun s => ¬(h.toNat = s.h ∧ w.toNat = s.w ∧ n.toNat = 3)) (execPbl_noShape data) (by simp) hs hp

theorem execPort_repeat {p : Port} (hp : execPort p s = .next t) : execPort p t = .next t := by
  cases p with
  | pbw x y r g b => exact execPbw_repeat hp
  | pbr x y => exact execPbr_repeat hp
  | pbl h w n data => exact execPbl_repeat hp
  | cfr x y => exact readOptional_repeat (store := State.cf) _ respond_cf recordError_cf hp
  | pfr x y => exact readOptional_repeat (store := State.pf) _ respond_pf recordError_pf hp
  | dmr x y => exact readOptional_repeat (store := State.dm) _ respond_dm recordError_dm hp
  | str =>
    cases hp
    rfl

theorem execOperation_repeat (ht : execOperation op s = .next t) : execOperation op t = .next t := by
  cases op with
  | port p => exact execPort_repeat ht
  | command w =>
    cases hd : decode w with
    | error e =>
      rw [execOperation_illegal w hd] at ht ⊢
      exact raise_repeat ht
    | ok i =>
      rw [execOperation_command w hd] at ht ⊢
      exact exec_repeat ht

/-- Settles O33, from `execPort_data` and `execOperation_repeat`. -/
theorem repeatingChangesNothing : Obligations.RepeatingChangesNothing :=
  ⟨fun _ _ _ _ hp hv => execPort_data hp hv, fun _ _ _ ht => execOperation_repeat ht⟩

/-! ### No operation looks at the host's sequence -/

/-- A meaning neither reads nor changes the host's sequence (log 3). -/
def IgnoresPending (f : State → Result) : Prop :=
  ∀ (s : State) (rest : List Request), f (s.setPending rest) = andThen (f s) fun t => .next (t.setPending rest)

theorem raise_ignoresPending (k : Cause) : IgnoresPending (raise k) := by
  intro s rest
  simp only [raise_eq, recordError_eq]
  rfl

theorem readElement_ignoresPending {store : State → Raster α} (x y : Coord) (data : α → Word)
    (hstore : ∀ s rest, store (s.setPending rest) = store s) : IgnoresPending fun s => readElement (store s) x y data s := by
  intro s rest
  simp only [hstore, readElement]
  cases (store s).get? x.toNat y.toNat <;> rfl

/-- Off the panel `E_RANGE`, else a meaning that ignores the sequence. -/
theorem IgnoresPending.onPanel {f : State → Result} (hf : IgnoresPending f) :
    IgnoresPending fun s => if s.outside x y then raise .range s else f s := by
  intro s rest
  have ho : (s.setPending rest).outside x y = s.outside x y := rfl
  simp only [ho]
  cases s.outside x y with
  | true => exact raise_ignoresPending .range s rest
  | false => exact hf s rest

theorem readOptional_ignoresPending {store : State → Option (Raster α)} (x y : Coord) (data : α → Word)
    (hstore : ∀ s rest, store (s.setPending rest) = store s) : IgnoresPending fun s => readOptional (store s) x y data s := by
  refine .onPanel fun s rest => ?_
  simp only [hstore]
  cases store s with
  | none => exact raise_ignoresPending .invalid s rest
  | some r => exact readElement_ignoresPending (store := fun _ => r) x y data (fun _ _ => rfl) s rest

/-- A meaning ignores the sequence at a state where it is one that does. -/
theorem IgnoresPending.of_eq {f g : State → Result} {rest : List Request} (hg : IgnoresPending g) (hs : f s = g s)
    (hrest : f (s.setPending rest) = g (s.setPending rest)) :
    f (s.setPending rest) = andThen (f s) fun t => .next (t.setPending rest) := by
  rw [hs, hrest, hg]

theorem execCompare_ignoresPending : IgnoresPending execCompare := by
  intro s rest
  cases hcf : s.cf with
  | none => exact (raise_ignoresPending .seq).of_eq (execCompare_noFrame hcf) (execCompare_noFrame hcf)
  | some cur =>
    cases hpf : s.pf with
    | none =>
      rw [execCompare_absent hcf hpf, execCompare_absent (s := s.setPending rest) hcf hpf]
      rfl
    | some prev =>
      rw [execCompare_present hcf hpf, execCompare_present (s := s.setPending rest) hcf hpf]
      rfl

theorem execCommit_ignoresPending : IgnoresPending execCommit := by
  intro s rest
  cases hcf : s.cf with
  | none => exact (raise_ignoresPending .seq).of_eq (execCommit_noFrame hcf) (execCommit_noFrame hcf)
  | some cur =>
    rw [execCommit_frame hcf, execCommit_frame (s := s.setPending rest) hcf]
    rfl

theorem exec_ignoresPending (i : Instr) : IgnoresPending (exec i) := by
  cases i with
  | convert | invalidate | fill => exact fun _ _ => rfl
  | compare => exact execCompare_ignoresPending
  | commit => exact execCommit_ignoresPending

theorem execPbl_ignoresPending {h w n : BitVec 17} (data : Vector (Vector (Vector Byte n.toNat) w.toNat) h.toNat) :
    IgnoresPending (execPbl h w n data) := by
  intro s rest
  by_cases hs : h.toNat = s.h ∧ w.toNat = s.w ∧ n.toNat = 3
  · rw [execPbl_shape data hs, execPbl_shape (s := s.setPending rest) data hs]
    rfl
  · exact (raise_ignoresPending .shape).of_eq (execPbl_noShape data hs) (execPbl_noShape data hs)

theorem execPort_ignoresPending (p : Port) : IgnoresPending (execPort p) := by
  cases p with
  | pbw x y r g b => exact .onPanel fun _ _ => rfl
  | pbr x y => exact .onPanel (readElement_ignoresPending x y pixelData setPending_pb)
  | pbl h w n data => exact execPbl_ignoresPending data
  | cfr x y => exact readOptional_ignoresPending x y packedData setPending_cf
  | pfr x y => exact readOptional_ignoresPending x y packedData setPending_pf
  | dmr x y => exact readOptional_ignoresPending x y bitData setPending_dm
  | str => exact fun _ _ => rfl

theorem execOperation_ignoresPending (op : Operation) : IgnoresPending (execOperation op) := by
  cases op with
  | port p => exact execPort_ignoresPending p
  | command w =>
    intro s rest
    cases hd : decode w with
    | error e => exact (raise_ignoresPending .illegal).of_eq (execOperation_illegal w hd) (execOperation_illegal w hd)
    | ok i => exact (exec_ignoresPending i).of_eq (execOperation_command w hd) (execOperation_command w hd)

/-- An operation presented before others runs as it does alone. -/
theorem step_operation (ht : execOperation op s = .next t) (rest : List Request) :
    step (s.setPending (.operation op :: rest)) = .next (t.setPending rest) := by
  rw [step_accept (setPending_pending s _)]
  refine (execOperation_ignoresPending op s rest).trans ?_
  rw [ht, andThen_next]

/-! ### The host's update is a run of the block -/

theorem run_trans {m n : Nat} {u : State} (hm : core.run m s = .next u) (hn : core.run n u = .next t) :
    core.run (m + n) s = .next t := by
  induction n generalizing t with
  | zero =>
    cases hn
    exact hm
  | succ n ih =>
    obtain ⟨v, hv, hs⟩ := run_succ.mp hn
    exact run_succ.mpr ⟨v, ih hv, hs⟩

/-- The operations issued between two sessions, presented in order, take the block from the one to the other. -/
def Session.RunsTo (h h' : Session) : Prop :=
  ∃ ops : List Operation, h'.issued = h.issued ++ ops ∧ ∀ rest : List Request,
    core.run ops.length (h.block.setPending (ops.map .operation ++ rest)) = .next (h'.block.setPending rest)

section RunsTo

variable {h h' h'' : Session}

/-- Whatever leaves the block and issues nothing is the run of no step. -/
theorem Session.RunsTo.of_same (hblock : h'.block = h.block) (hissued : h'.issued = h.issued) : h.RunsTo h' :=
  ⟨[], by simp [hissued], fun rest => by rw [hblock]; rfl⟩

theorem Session.RunsTo.refl (h : Session) : h.RunsTo h := .of_same rfl rfl

theorem Session.RunsTo.after (ht : execOperation op h.block = .next t) : h.RunsTo (h.after op t) :=
  ⟨[op], rfl, fun rest => run_of_next (step_operation ht rest) 0⟩

theorem Session.RunsTo.trans (hfirst : h.RunsTo h') (hsecond : h'.RunsTo h'') : h.RunsTo h'' := by
  obtain ⟨ops, hissued, hrun⟩ := hfirst
  obtain ⟨ops', hissued', hrun'⟩ := hsecond
  refine ⟨ops ++ ops', by rw [hissued', hissued, List.append_assoc], fun rest => ?_⟩
  rw [List.length_append, List.map_append, List.append_assoc]
  exact run_trans (hrun _) (hrun' rest)

end RunsTo

/-- However a part of the procedure ends, but for a read without data, it has run the block from `h` to its last session. -/
def HostOutcome.RunsFrom (h : Session) : HostOutcome α → Prop
  | .done _ h' => h.RunsTo h'
  | .transportError h' => h.RunsTo h'
  | .noData _ => True

theorem HostOutcome.RunsFrom.trans {h h₁ : Session} {o : HostOutcome α} (hfirst : h.RunsTo h₁) (ho : o.RunsFrom h₁) :
    o.RunsFrom h := by
  cases o with
  | done v h' => exact Session.RunsTo.trans hfirst ho
  | transportError h' => exact Session.RunsTo.trans hfirst ho
  | noData h' => trivial

theorem HostOutcome.RunsFrom.bind {β : Type} {h : Session} {o : HostOutcome β} {f : β → Session → HostOutcome α}
    (ho : o.RunsFrom h) (hf : ∀ v h₁, (f v h₁).RunsFrom h₁) : (o.bind f).RunsFrom h := by
  cases o with
  | done v h₁ => exact .trans ho (hf v h₁)
  | transportError h' => exact ho
  | noData h' => trivial

theorem done_runsFrom (v : α) (h : Session) : (HostOutcome.done v h).RunsFrom h := Session.RunsTo.refl h

theorem issueCommand_runsFrom (i : Instr) (h : Session) : (issueCommand i h).RunsFrom h := by
  unfold issueCommand
  split
  · next t ht => exact Session.RunsTo.after ht
  · trivial
  · trivial

theorem issueRead_runsFrom (p : Port) (h : Session) : (issueRead p h).RunsFrom h := by
  unfold issueRead
  split
  · next t ht =>
    split
    · exact Session.RunsTo.after ht
    · trivial
  · trivial
  · trivial

theorem readAll_runsFrom (ps : List Port) (h : Session) : (readAll ps h).RunsFrom h := by
  induction ps generalizing h with
  | nil => exact done_runsFrom _ h
  | cons p rest ih =>
    exact (issueRead_runsFrom p h).bind fun _ h₁ => (ih h₁).bind fun _ h₂ => done_runsFrom _ h₂

theorem readRows_runsFrom (rows : List (List Port)) (h : Session) : (readRows rows h).RunsFrom h := by
  induction rows generalizing h with
  | nil => exact done_runsFrom _ h
  | cons row rest ih =>
    exact (readAll_runsFrom row h).bind fun _ h₁ => (ih h₁).bind fun _ h₂ => done_runsFrom _ h₂

theorem readRects_runsFrom (d : Nat) (h : Session) : (readRects d h).RunsFrom h := by
  refine (issueRead_runsFrom .str h).bind fun status h₁ => ?_
  cases status.getLsbD 3 with
  | true => exact done_runsFrom _ h₁
  | false =>
    cases status.getLsbD 4 with
    | true =>
      exact ((readRows_runsFrom _ h₁).bind fun _ h₂ => done_runsFrom _ h₂).bind fun _ h₂ => done_runsFrom _ h₂
    | false => exact done_runsFrom _ h₁

theorem callAll_runsFrom (cs : List BusCall) (h : Session) : (callAll cs h).RunsFrom h := by
  cases hc : callAll cs h with
  | done v h' =>
    obtain ⟨hblock, hissued⟩ := callAll_block (.inl hc)
    exact Session.RunsTo.of_same hblock hissued
  | transportError h' =>
    obtain ⟨hblock, hissued⟩ := callAll_block (.inr hc)
    exact Session.RunsTo.of_same hblock hissued
  | noData h' => trivial

theorem sendRect_runsFrom (o : HostOptions) (q : Rect) (h : Session) : (sendRect o q h).RunsFrom h :=
  ((readAll_runsFrom _ h).bind fun _ h₁ => done_runsFrom _ h₁).bind fun _ h₁ => callAll_runsFrom _ h₁

theorem sendRects_runsFrom (o : HostOptions) (rs : List Rect) (h : Session) : (sendRects o rs h).RunsFrom h := by
  induction rs generalizing h with
  | nil => exact done_runsFrom _ h
  | cons q rest ih => exact (sendRect_runsFrom o q h).bind fun _ h₁ => ih h₁

theorem hostUpdate_runsFrom (o : HostOptions) (h : Session) : (hostUpdate o h).RunsFrom h :=
  (issueCommand_runsFrom .convert h).bind fun _ h₁ =>
    (issueCommand_runsFrom .compare h₁).bind fun _ h₂ =>
      (readRects_runsFrom o.mergeDistance h₂).bind fun rs h₃ =>
        (sendRects_runsFrom o rs h₃).bind fun _ h₄ => issueCommand_runsFrom .commit h₄

/-- Settles O55: every part of the procedure runs the block by what it issues, and runs compose. -/
theorem updateIsARunOfTheBlock : Obligations.UpdateIsARunOfTheBlock := by
  intro o h h' hend
  have hrun := hostUpdate_runsFrom o h
  rcases hend with hend | hend
  · rwa [hend] at hrun
  · rwa [hend] at hrun

end Sys2Proof.Machine
end

section
/-! SUPPORT. Proofs of the family 30_encoding.md: the encoder and the decoder, the rows of the opcode map, and the host's sequences
`CLEAR` and `REPAINT`, with what an update does on a transport that never fails. -/

namespace Sys2Proof.Machine

open Sys2Proof.Laws

variable {α : Type} {s u : State} {h : Session} {w : Word}

/-! ### The encoder and the decoder -/

theorem decode_of_opField_fill (hop : opField w = 0x05) : decode w = .ok (.fill (fieldA w) (fieldB w) (fieldC w)) := by
  simp [decode, hop]

/-- The word of a command decodes to the command (30_encoding.md R67). -/
theorem decode_encode (i : Instr) : decode (encode i) = .ok i := by
  cases i with
  | convert | compare | commit | invalidate => decide
  | fill r g b =>
    rw [encode, decode_of_opField_fill (opField_commandWord ..), fieldA_commandWord, fieldB_commandWord, fieldC_commandWord]

/-- Settles O2, from the two directions `decode_encode` and `encode_of_decode`. -/
theorem decodeEncodeAgree : Obligations.DecodeEncodeAgree :=
  ⟨fun i _ => decode_encode i, fun _ _ hd => encode_of_decode hd⟩

/-- Settles O1: ten closed words. -/
theorem specWordsDecode : Obligations.SpecWordsDecode := by
  unfold Obligations.SpecWordsDecode
  decide

/-! ### The opcode map -/

theorem selectsOwnRow (i : Instr) : SelectsOwnRow.Statement i := by
  cases i with
  | convert => exact SelectsOwnRow.convert
  | compare => exact SelectsOwnRow.compare
  | commit => exact SelectsOwnRow.commit
  | invalidate => exact SelectsOwnRow.invalidate
  | fill r g b => exact SelectsOwnRow.fill r g b

/-- A row whose mask is all ones selects its own pattern only (30_encoding.md R59). -/
theorem decode_of_selects_fullMask {name : String} (i : Instr)
    (hsel : OpcodeRow.selects ⟨name, encode i, 0xFFFFFFFF⟩ w = true) : decode w = .ok i := by
  have hmask : (0xFFFFFFFF : Word) = BitVec.allOnes 32 := by decide
  rw [OpcodeRow.selects, beq_iff_eq, hmask, BitVec.and_allOnes] at hsel
  rw [hsel, decode_encode]

/-- The row of `FILL` looks at the opcode field only (30_encoding.md R59). -/
theorem opField_of_selects_opcodeMask {name : String} {pattern : Word}
    (hsel : OpcodeRow.selects ⟨name, pattern, 0xFF000000⟩ w = true) : opField w = opField pattern := by
  have hmask : opField 0xFF000000 = BitVec.allOnes 8 := by decide
  calc opField w = opField w &&& opField 0xFF000000 := by rw [hmask, BitVec.and_allOnes]
    _ = opField (w &&& 0xFF000000) := BitVec.extractLsb'_and.symm
    _ = opField pattern := by rw [beq_iff_eq.mp hsel]

/-- A word that a row selects decodes to a command of the row's name. -/
theorem decode_of_selects {row : OpcodeRow} (hrow : row ∈ opcodeMap) (hsel : row.selects w = true) :
    ∃ i, decode w = .ok i ∧ i.mnemonic = row.mnemonic := by
  simp only [opcodeMap, List.mem_cons, List.not_mem_nil, or_false] at hrow
  rcases hrow with rfl | rfl | rfl | rfl | rfl
  · exact ⟨.convert, decode_of_selects_fullMask .convert hsel, rfl⟩
  · exact ⟨.compare, decode_of_selects_fullMask .compare hsel, rfl⟩
  · exact ⟨.commit, decode_of_selects_fullMask .commit hsel, rfl⟩
  · exact ⟨.invalidate, decode_of_selects_fullMask .invalidate hsel, rfl⟩
  · exact ⟨_, decode_of_opField_fill (opField_of_selects_opcodeMask hsel), rfl⟩

theorem opcodeMap_mnemonic_inj :
    ∀ row ∈ opcodeMap, ∀ row' ∈ opcodeMap, row.mnemonic = row'.mnemonic → row = row' := by
  decide

/-- Settles O3: a command's word is the word its own row selects, and a word of two rows would decode to commands of two names. -/
theorem decoderFollowsOpcodeMap : Obligations.DecoderFollowsOpcodeMap := by
  refine ⟨fun w i hd => ?_, fun w row => decode_of_selects, fun w row row' hrow hrow' hsel hsel' => ?_, fun w r g b hd => ?_⟩
  · obtain ⟨row, hrow, hname, hsel⟩ := selectsOwnRow i
    exact ⟨row, hrow, encode_of_decode hd ▸ hsel, hname⟩
  · obtain ⟨i, hd, hname⟩ := decode_of_selects hrow hsel
    obtain ⟨j, hd', hname'⟩ := decode_of_selects hrow' hsel'
    cases hd.symm.trans hd'
    exact opcodeMap_mnemonic_inj row hrow row' hrow' (hname.symm.trans hname')
  · rw [← encode_of_decode hd, encode, ← fieldA_toNat, ← fieldB_toNat, ← fieldC_toNat, fieldA_commandWord,
      fieldB_commandWord, fieldC_commandWord]
    exact ⟨rfl, rfl, rfl⟩

/-! ### Rectangles on the panel -/

/-- A band runs from an index of the set to one no smaller (45_downstream_contract.md R107). -/
theorem mem_bandsFrom {d top bot : Nat} {rest : List Nat} (hle : top ≤ bot) (hsorted : (bot :: rest).Pairwise (· < ·))
    {band : Nat × Nat} (hmem : band ∈ bandsFrom d top bot rest) :
    band.1 ∈ top :: rest ∧ band.2 ∈ bot :: rest ∧ band.1 ≤ band.2 := by
  induction rest generalizing top bot with
  | nil =>
    cases List.mem_singleton.mp hmem
    exact ⟨List.mem_cons_self, List.mem_cons_self, hle⟩
  | cons r rest ih =>
    obtain ⟨hbot, hrest⟩ := List.pairwise_cons.mp hsorted
    have hr : bot < r := hbot r List.mem_cons_self
    rw [bandsFrom] at hmem
    split at hmem
    · obtain ⟨hfirst, hlast, hband⟩ := ih (hle.trans hr.le) hrest hmem
      have hsub : rest ⊆ r :: rest := List.subset_cons_self r rest
      exact ⟨List.cons_subset_cons top hsub hfirst, List.mem_cons_of_mem bot hlast, hband⟩
    · rcases List.mem_cons.mp hmem with rfl | hmem
      · exact ⟨List.mem_cons_self, List.mem_cons_self, hle⟩
      · obtain ⟨hfirst, hlast, hband⟩ := ih le_rfl hrest hmem
        exact ⟨List.mem_cons_of_mem _ hfirst, List.mem_cons_of_mem _ hlast, hband⟩

theorem mem_bands {d : Nat} {indices : List Nat} (hsorted : indices.Pairwise (· < ·)) {band : Nat × Nat}
    (hmem : band ∈ bands d indices) : band.1 ∈ indices ∧ band.2 ∈ indices ∧ band.1 ≤ band.2 := by
  cases indices with
  | nil => cases hmem
  | cons first rest => exact mem_bandsFrom le_rfl hsorted hmem

theorem dirtyRows_sorted (w h : Nat) (m : Raster Bool) : (dirtyRows w h m).Pairwise (· < ·) :=
  List.pairwise_lt_range.filter _

theorem dirtyCols_sorted (w : Nat) (m : Raster Bool) (top bot : Nat) : (dirtyCols w m top bot).Pairwise (· < ·) :=
  List.pairwise_lt_range.filter _

/-- The edges of a rectangle on the panel (45_downstream_contract.md R101). -/
theorem Rect.onPanel_iff {w h : Nat} {q : Rect} :
    q.onPanel w h = true ↔ q.x1 ≤ q.x2 ∧ q.x2 < w ∧ q.y1 ≤ q.y2 ∧ q.y2 < h := by
  simp [Rect.onPanel, and_assoc]

/-- Every rectangle of a mask is on the panel and not empty (45_downstream_contract.md R101). -/
theorem rects_onPanel {w h d : Nat} {m : Raster Bool} {q : Rect} (hq : q ∈ rects w h d m) : q.onPanel w h = true := by
  obtain ⟨⟨top, bot⟩, hrows, hq⟩ := List.mem_flatMap.mp hq
  obtain ⟨⟨left, right⟩, hcols, rfl⟩ := List.mem_map.mp hq
  obtain ⟨_, hbot, hy⟩ := mem_bands (dirtyRows_sorted w h m) hrows
  obtain ⟨_, hright, hx⟩ := mem_bands (dirtyCols_sorted w m top bot) hcols
  exact Rect.onPanel_iff.mpr ⟨hx, ((mem_dirtyCols hy).mp hright).1, hy, (mem_dirtyRows.mp hbot).1⟩

/-- The rectangle list while FULL is 1 (45_downstream_contract.md R105). -/
theorem rectList_full (d : Nat) (hfull : s.full = true) : rectList d s = [⟨0, 0, s.w - 1, s.h - 1⟩] := by
  simp [rectList, hfull]

theorem rectList_onPanel (hs : s.Shaped) {d : Nat} {q : Rect} (hq : q ∈ rectList d s) : q.onPanel s.w s.h = true := by
  obtain ⟨hw, hh⟩ := hs.panel_pos
  unfold rectList at hq
  split at hq
  · cases List.mem_singleton.mp hq
    exact Rect.onPanel_iff.mpr ⟨Nat.zero_le _, Nat.sub_one_lt_of_lt hw, Nat.zero_le _, Nat.sub_one_lt_of_lt hh⟩
  · split at hq
    · split at hq
      · exact rects_onPanel hq
      · cases hq
    · cases hq

/-! ### What the host reads -/

/-- The data of the element at a coordinate; 0 where the store has none. -/
def elementData (r : Raster α) (data : α → Word) (x y : Coord) : Word := ((r.get? x.toNat y.toNat).map data).getD 0

/-- The data a read transaction finds in a store; the other transactions read none. -/
def storedData (r : Raster α) (data : α → Word) : Port → Word
  | .pbr x y | .cfr x y | .pfr x y | .dmr x y => elementData r data x y
  | .pbw _ _ _ _ _ | .pbl _ _ _ _ | .str => 0

theorem elementData_of_get? {r : Raster α} {x y : Coord} {v : α} (data : α → Word) (hv : r.get? x.toNat y.toNat = some v) :
    elementData r data x y = data v := by
  simp [elementData, hv]

/-- A coordinate on a legal panel fits its operand (00_scope.md R5, 20_memory.md R43). -/
theorem State.Shaped.coord_toNat (hs : s.Shaped) {i : Nat} (hi : i < s.w ∨ i < s.h) : (coord i).toNat = i := by
  have hp := hs.panel
  simp only [panelWf, Bool.and_eq_true, decide_eq_true_eq] at hp
  rw [coord, BitVec.toNat_ofNat]
  omega

/-- A read of a store at a pixel of the panel answers the element, whatever the latest response was. -/
theorem State.Shaped.readOptional_coord (hs : s.Shaped) {store : Option (Raster α)} {r : Raster α} (hwf : r.wf s.w s.h = true)
    (hr : store = some r) (data : α → Word) {x y : Nat} (hx : x < s.w) (hy : y < s.h) (response : Option Response) :
    readOptional store (coord x) (coord y) data { s with response } =
      .next (s.respond (.data (elementData r data (coord x) (coord y)))) := by
  subst hr
  have hcx : (coord x).toNat < s.w := by rwa [hs.coord_toNat (.inl hx)]
  have hcy : (coord y).toNat < s.h := by rwa [hs.coord_toNat (.inr hy)]
  obtain ⟨v, hv⟩ := Raster.exists_get? hwf hcx hcy
  rw [elementData_of_get? data hv]
  exact readOptional_value (s := { s with response }) data ((inside_iff _ _).mpr ⟨hcx, hcy⟩) hv

/-- `CFR` gives back the frame's value in 16 bits (20_memory.md R46). -/
theorem packedData_setWidth (v : Packed) : (packedData v).setWidth 16 = v := by
  simp [packedData]

theorem bitData_getLsbD_zero (v : Bool) : (bitData v).getLsbD 0 = v := by
  cases v <;> rfl

/-- The indices of a span that ends inside the panel are on the panel. -/
theorem lt_of_mem_span {first last bound i : Nat} (hlast : last < bound) (hi : i ∈ List.range' first (last + 1 - first)) :
    i < bound := by
  have := List.mem_range'_1.mp hi
  omega

section Pixels

variable {cf : Raster Packed} {q : Rect} (hs : s.Shaped) (hwf : cf.wf s.w s.h = true) (hq : q.onPanel s.w s.h = true)

include hs hwf hq

theorem execPort_of_mem_pixelReads (hcf : s.cf = some cf) {p : Port} (hp : p ∈ pixelReads q) (r : Option Response) :
    execPort p { s with response := r } = .next (s.respond (.data (storedData cf packedData p))) := by
  obtain ⟨_, hx2, _, hy2⟩ := Rect.onPanel_iff.mp hq
  obtain ⟨x, hx, hp⟩ := List.mem_flatMap.mp hp
  obtain ⟨y, hy, rfl⟩ := List.mem_map.mp hp
  exact hs.readOptional_coord hwf hcf packedData (lt_of_mem_span hx2 hx) (lt_of_mem_span hy2 hy) r

/-- The payload of a rectangle, read by read (45_downstream_contract.md R114). -/
theorem payload_eq_flatMap_pixelReads :
    payload cf q = (pixelReads q).flatMap fun p => bigEndian ((storedData cf packedData p).setWidth 16) := by
  obtain ⟨_, hx2, _, hy2⟩ := Rect.onPanel_iff.mp hq
  simp only [payload, pixelReads, List.flatMap_assoc, List.flatMap_map]
  refine List.flatMap_congr fun x hx => List.flatMap_congr fun y hy => ?_
  have hx := lt_of_mem_span hx2 hx
  have hy := lt_of_mem_span hy2 hy
  obtain ⟨v, hv⟩ := Raster.exists_get? hwf hx hy
  simp [storedData, elementData, hs.coord_toNat (.inl hx), hs.coord_toNat (.inr hy), hv, packedData_setWidth]

end Pixels

/-- What the host reads of a rectangle on the panel is the frame's payload, and the reads change nothing but the response
(45_downstream_contract.md R104, R114). -/
theorem readPayload_done (hs : h.block.Shaped) {cf : Raster Packed} (hcf : h.block.cf = some cf) {q : Rect}
    (hq : q.onPanel h.block.w h.block.h = true) :
    ∃ r, readPayload q h = .done (payload cf q) (h.afterReads r ((pixelReads q).map .port)) := by
  have hwf := hs.cf cf hcf
  obtain ⟨r, hr⟩ := readAll_done fun p hp r => execPort_of_mem_pixelReads hs hwf hq hcf hp r
  exact ⟨r, by rw [readPayload, hr, bind_done, payload_eq_flatMap_pixelReads hs hwf hq, List.flatMap_map]⟩

theorem maskReads_eq_ofFn (w h : Nat) : maskReads w h = Raster.ofFn w h fun y x => .dmr (coord x) (coord y) := rfl

section Mask

variable {m : Raster Bool} (hs : s.Shaped) (hdm : s.dm = some m)

include hs hdm

theorem execPort_of_mem_maskReads {row : List Port} (hrow : row ∈ maskReads s.w s.h) {p : Port} (hp : p ∈ row)
    (r : Option Response) :
    execPort p { s with response := r } = .next (s.respond (.data (storedData m bitData p))) := by
  obtain ⟨y, hy, rfl⟩ := List.mem_map.mp hrow
  obtain ⟨x, hx, rfl⟩ := List.mem_map.mp hp
  exact hs.readOptional_coord (hs.dm m hdm) hdm bitData (List.mem_range.mp hx) (List.mem_range.mp hy) r

/-- The mask, read by read (20_memory.md R48). -/
theorem map_maskReads_eq :
    Raster.map (fun p => (storedData m bitData p).getLsbD 0) (maskReads s.w s.h) = m := by
  have hwf := hs.dm m hdm
  refine Raster.ext_of_wf (Raster.wf_map _ (Raster.wf_ofFn _)) hwf fun x y hx hy => ?_
  obtain ⟨v, hv⟩ := Raster.exists_get? hwf hx hy
  rw [Raster.get?_map, maskReads_eq_ofFn, Raster.get?_ofFn, if_pos ⟨hx, hy⟩, hv]
  simp [storedData, elementData, hs.coord_toNat (.inl hx), hs.coord_toNat (.inr hy), hv, -BitVec.getLsbD_eq_getElem,
    bitData_getLsbD_zero]

end Mask

/-- What the host reads of the mask is the mask (45_downstream_contract.md R104). -/
theorem readMask_done (hs : h.block.Shaped) {m : Raster Bool} (hdm : h.block.dm = some m) :
    ∃ r, readMask h = .done m (h.afterReads r ((maskReads h.block.w h.block.h).flatten.map .port)) := by
  obtain ⟨r, hr⟩ := readRows_done fun row hrow p hp r => execPort_of_mem_maskReads hs hdm hrow hp r
  refine ⟨r, ?_⟩
  rw [readMask, hr, bind_done]
  congr 1
  refine Eq.trans ?_ (map_maskReads_eq hs hdm)
  simp [Raster.map, Function.comp_def]

theorem issueRead_str (h : Session) :
    issueRead .str h = .done h.block.status (h.afterReads (some (.data h.block.status)) [.port .str]) :=
  issueRead_done rfl

/-- The operations by which the host learns the rectangle list: `STR`, and the mask only if FULL is 0 and ANY is 1
(45_downstream_contract.md R104 to R106). -/
def rectReads (s : State) : List Operation :=
  .port .str :: if s.full = false ∧ s.any = true then (maskReads s.w s.h).flatten.map .port else []

/-- What the host reads of STATUS and the mask gives it the block's rectangle list (45_downstream_contract.md R104). -/
theorem readRects_done (d : Nat) (hs : h.block.Shaped) (hmask : h.block.any = true → h.block.dmv = true) :
    ∃ r, readRects d h = .done (rectList d h.block) (h.afterReads r (rectReads h.block)) := by
  obtain ⟨_, _, _, hbit3, hbit4⟩ := status_flags h.block
  rw [readRects, issueRead_str, bind_done, hbit3, hbit4]
  cases hfull : h.block.full with
  | true => exact ⟨some (.data h.block.status), by simp [rectList, rectReads, hfull]⟩
  | false =>
    cases hany : h.block.any with
    | false => exact ⟨some (.data h.block.status), by simp [rectList, rectReads, hfull, hany]⟩
    | true =>
      obtain ⟨m, hdm⟩ := Option.isSome_iff_exists.mp (hmask hany)
      obtain ⟨r, hr⟩ := readMask_done (afterReads_shaped (some (.data h.block.status)) [.port .str] hs) hdm
      exact ⟨r, by simp [rectList, rectReads, hfull, hany, hdm, hr]⟩

/-! ### What the host sends -/

/-- The transport carries out this many calls more (45_downstream_contract.md R117). -/
def Session.Carries (h : Session) (calls : Nat) : Prop := ∀ k, h.failAfter = some k → calls ≤ k

theorem Session.carries_of_never (hf : h.failAfter = none) (calls : Nat) : h.Carries calls := by
  rw [Session.Carries, hf]
  nofun

theorem Session.Carries.first {m n : Nat} (hcarries : h.Carries (m + n)) : h.Carries m := fun k hk =>
  (Nat.le_add_right m n).trans (hcarries k hk)

theorem Session.Carries.rest {cs : List BusCall} {n : Nat} (hcarries : h.Carries (cs.length + n)) :
    (h.afterCalls cs (h.failAfter.map (· - cs.length))).Carries n := by
  intro k hk
  obtain ⟨k₀, hk₀, rfl⟩ := Option.map_eq_some_iff.mp hk
  have := hcarries k₀ hk₀
  omega

theorem callAll_carried {cs : List BusCall} (hcarries : h.Carries cs.length) :
    callAll cs h = .done () (h.afterCalls cs (h.failAfter.map (· - cs.length))) := by
  cases hf : h.failAfter with
  | none => exact callAll_never hf
  | some k => exact callAll_enough hf (hcarries k hf)

/-- One rectangle: reads of its pixels, then its transport calls (45_downstream_contract.md R113 to R116). -/
theorem sendRect_eq_callAll (o : HostOptions) (hs : h.block.Shaped) {cf : Raster Packed} (hcf : h.block.cf = some cf) {q : Rect}
    (hq : q.onPanel h.block.w h.block.h = true) :
    ∃ r, sendRect o q h = callAll (rectCalls o cf q) (h.afterReads r ((pixelReads q).map .port)) := by
  obtain ⟨r, hr⟩ := readPayload_done hs hcf hq
  exact ⟨r, by rw [sendRect, hr, bind_done]; rfl⟩

theorem afterCalls_afterReads (calls : List BusCall) (n : Option Nat) (r : Option Response) (ops : List Operation) :
    (h.afterCalls calls n).afterReads r ops = (h.afterReads r ops).afterCalls calls n := rfl

/-- Every rectangle is sent, in order (45_downstream_contract.md R121). -/
theorem sendRects_done (o : HostOptions) (hs : h.block.Shaped) {cf : Raster Packed} (hcf : h.block.cf = some cf)
    {rs : List Rect} (hrs : ∀ q ∈ rs, q.onPanel h.block.w h.block.h = true)
    (hcarries : h.Carries (updateCalls o cf rs).length) :
    ∃ r, sendRects o rs h = .done () ((h.afterReads r (rs.flatMap fun q => (pixelReads q).map .port)).afterCalls
      (updateCalls o cf rs) (h.failAfter.map (· - (updateCalls o cf rs).length))) := by
  induction rs generalizing h with
  | nil => exact ⟨h.block.response, by simp [sendRects, updateCalls, afterReads_nil, afterCalls_nil]⟩
  | cons q rest ih =>
    obtain ⟨hq, hrest⟩ := List.forall_mem_cons.mp hrs
    have hsplit : updateCalls o cf (q :: rest) = rectCalls o cf q ++ updateCalls o cf rest := rfl
    rw [hsplit, List.length_append] at hcarries
    obtain ⟨r₁, hsend⟩ := sendRect_eq_callAll o hs hcf hq
    have hread : (h.afterReads r₁ ((pixelReads q).map .port)).Carries
      ((rectCalls o cf q).length + (updateCalls o cf rest).length) := hcarries
    rw [callAll_carried hread.first] at hsend
    obtain ⟨r, hsends⟩ := ih (h := (h.afterReads r₁ ((pixelReads q).map .port)).afterCalls (rectCalls o cf q) _)
      (afterReads_shaped r₁ ((pixelReads q).map .port) hs) hcf hrest hread.rest
    refine ⟨r, ?_⟩
    rw [sendRects, hsend, bind_done]
    refine hsends.trans ?_
    simp [hsplit, afterCalls_afterReads, Function.comp_def, Nat.sub_sub]

/-! ### The host's update -/

/-- What `CONVERT; COMPARE` leaves: the conversion of PB in CF, a mask in DM, FULL the absence of the cache, PB and PF as they
were (40_color_converter.md R76, 41_frame_comparator.md R82). -/
structure Compared (s u : State) : Prop where
  shaped : u.Shaped
  w : u.w = s.w
  h : u.h = s.h
  pb : u.pb = s.pb
  pf : u.pf = s.pf
  cf : u.cf = some (convertFrame s.pb)
  dmv : u.dmv = true
  full : u.full = !s.pfv

theorem convertCompare_compared (hs : s.Shaped) : ∃ u, convertCompare s = .next u ∧ Compared s u := by
  have hconverted : ((s.dropMask.setFrame (convertFrame s.pb)).respond .ok).Shaped :=
    (hs.dropMask.setFrame hs.convertFrame).respond _
  cases hpf : s.pf with
  | none =>
    exact ⟨_, convertCompare_absent hpf, (hconverted.setMask (Raster.wf_const _) _ _).respond _, rfl, rfl, rfl, rfl, rfl, rfl,
      by simp [State.pfv, hpf]⟩
  | some prev =>
    exact ⟨_, convertCompare_present hpf,
      (hconverted.setMask (Raster.wf_zip _ hs.convertFrame (hs.pf prev hpf)) _ _).respond _, rfl, rfl, rfl, rfl, rfl, rfl,
      by simp [State.pfv, hpf]⟩

/-- The session after `CONVERT; COMPARE` that left the block in `u`. -/
def Session.afterCompare (h : Session) (u : State) : Session :=
  { h with block := u, issued := h.issued ++ [.command (encode .convert), .command (encode .compare)] }

@[simp] theorem afterCompare_block : (h.afterCompare u).block = u := rfl
@[simp] theorem afterCompare_bus : (h.afterCompare u).bus = h.bus := rfl
@[simp] theorem afterCompare_issued : (h.afterCompare u).issued =
    h.issued ++ [.command (encode .convert), .command (encode .compare)] := rfl

/-- The first half of the procedure is `CONVERT; COMPARE` (45_downstream_contract.md R121). -/
theorem issue_convertCompare {β : Type} (hu : convertCompare h.block = .next u) (f : Unit → Session → HostOutcome β) :
    ((issueCommand .convert h).bind fun _ h => (issueCommand .compare h).bind f) = f () (h.afterCompare u) := by
  rw [issueCommand_done (decode_encode .convert) execConvert_eq, bind_done]
  have hcompare : exec .compare ((h.block.dropMask.setFrame (convertFrame h.block.pb)).respond .ok) = .next u := hu
  rw [issueCommand_done (decode_encode .compare) hcompare, bind_done]
  simp [Session.after, Session.afterCompare]

theorem issueCommit_done {cf : Raster Packed} (hcf : h.block.cf = some cf) :
    issueCommand .commit h =
      .done () (h.after (.command (encode .commit)) ((h.block.dropMask.setCache (some cf)).respond .ok)) :=
  issueCommand_done (decode_encode .commit) (execCommit_frame hcf)

/-- Everything an update issues from a block that `CONVERT; COMPARE` leaves in `u` (45_downstream_contract.md R104, R121). -/
def updateOperations (d : Nat) (u : State) : List Operation :=
  [.command (encode .convert), .command (encode .compare)] ++ rectReads u ++
    ((rectList d u).flatMap fun q => (pixelReads q).map .port) ++ [.command (encode .commit)]

/-- If the transport carries out the calls of the rectangle list, the update ends with `COMMIT` (45_downstream_contract.md R121). -/
theorem hostUpdate_done (o : HostOptions) (hu : convertCompare h.block = .next u) (hc : Compared h.block u)
    (hcarries : h.Carries (updateCalls o (convertFrame h.block.pb) (rectList o.mergeDistance u)).length) :
    ∃ h', hostUpdate o h = .done () h' ∧ finish true u = .next h'.block ∧
      h'.bus = h.bus ++ updateCalls o (convertFrame h.block.pb) (rectList o.mergeDistance u) ∧
      h'.issued = h.issued ++ updateOperations o.mergeDistance u := by
  obtain ⟨r₁, hrects⟩ := readRects_done o.mergeDistance (h := h.afterCompare u) hc.shaped fun _ => hc.dmv
  obtain ⟨r₂, hsends⟩ := sendRects_done o (h := (h.afterCompare u).afterReads r₁ (rectReads u))
    (afterReads_shaped _ _ hc.shaped) hc.cf (fun _ => rectList_onPanel hc.shaped) hcarries
  rw [hostUpdate, issue_convertCompare hu, hrects, bind_done, afterCompare_block, hsends, bind_done, issueCommit_done hc.cf]
  exact ⟨_, rfl, finish_true hc.cf, by simp, by simp [updateOperations]⟩

/-- On a transport that never fails an update ends with PF the conversion of PB (42_cache_control.md R90). -/
theorem hostUpdate_never (o : HostOptions) (hs : h.block.Shaped) (hf : h.failAfter = none) :
    ∃ u h', convertCompare h.block = .next u ∧ Compared h.block u ∧ hostUpdate o h = .done () h' ∧
      h'.block.pb = h.block.pb ∧ h'.block.pf = some (convertFrame h.block.pb) ∧
      h'.bus = h.bus ++ updateCalls o (convertFrame h.block.pb) (rectList o.mergeDistance u) := by
  obtain ⟨u, hu, hc⟩ := convertCompare_compared hs
  obtain ⟨h', hdone, hfinish, hbus, _⟩ := hostUpdate_done o hu hc (Session.carries_of_never hf _)
  rw [finish_true hc.cf] at hfinish
  injection hfinish with hblock
  exact ⟨u, h', hu, hc, hdone, by rw [← hblock]; exact hc.pb, by rw [← hblock]; rfl, hbus⟩

theorem hostClear_eq (o : HostOptions) (r g b : Byte) (h : Session) :
    hostClear o r g b h = hostUpdate o (h.after (.command (encode (.fill r g b)))
      ((h.block.setBuffer (Raster.const h.block.w h.block.h ⟨r, g, b⟩)).respond .ok)) := by
  rw [hostClear, issueCommand_done (decode_encode (.fill r g b)) rfl]
  rfl

theorem hostRepaint_eq (o : HostOptions) (h : Session) :
    hostRepaint o h = hostUpdate o (h.after (.command (encode .invalidate)) ((h.block.dropMask.setCache none).respond .ok)) := by
  rw [hostRepaint, issueCommand_done (decode_encode .invalidate) rfl]
  rfl

/-- Settles O57, by `hostUpdate_never` after `FILL` and after `INVALIDATE`, whose absent cache makes FULL 1. -/
theorem clearAndRepaintComplete : Obligations.ClearAndRepaintComplete := by
  refine fun o h hs hf => ⟨fun r g b => ?_, ?_⟩
  · obtain ⟨u, h', _, _, hdone, hpb, hpf, _⟩ := hostUpdate_never o
      (h := h.after (.command (encode (.fill r g b)))
        ((h.block.setBuffer (Raster.const h.block.w h.block.h ⟨r, g, b⟩)).respond .ok)) (hs.frame (Raster.wf_const _)) hf
    refine ⟨h', (hostClear_eq ..).trans hdone, fun x y hx hy => ?_⟩
    have hpixel : (Raster.const h.block.w h.block.h (⟨r, g, b⟩ : Pixel)).get? x y = some ⟨r, g, b⟩ := by
      rw [Raster.get?_const, if_pos ⟨hx, hy⟩]
    simp [State.pfAt, hpb, hpf, convertFrame, hpixel]
  · obtain ⟨u, h', _, hc, hdone, _, hpf, hbus⟩ := hostUpdate_never o
      (h := h.after (.command (encode .invalidate)) ((h.block.dropMask.setCache none).respond .ok))
      ((hs.dropMask.setCache (p := none) nofun).respond _) hf
    refine ⟨h', (hostRepaint_eq ..).trans hdone, hpf, ?_⟩
    rw [hbus, rectList_full _ hc.full, hc.w, hc.h]
    simp [updateCalls]

end Sys2Proof.Machine
end

section
/-! SUPPORT. Proofs of the family 40_color_converter.md: the reductions and the packed value as numbers, the classes of `pack565`, and
what `CONVERT` leaves at a pixel. -/

namespace Sys2Proof.Machine

variable {s t : State} {x y : Nat}

/-! ### The reductions -/

/-- A channel shifted down by `k` fits in its other `m` bits, so the narrowing loses nothing. -/
theorem reduced_toNat {k m : Nat} (hkm : k + m = 8) (c : Byte) : ((c >>> k).setWidth m).toNat = c.toNat / 2 ^ k := by
  have hfits : c.toNat / 2 ^ k < 2 ^ m := Nat.div_lt_of_lt_mul (by rw [← pow_add, hkm]; exact c.isLt)
  rw [BitVec.toNat_setWidth, BitVec.toNat_ushiftRight, Nat.shiftRight_eq_div_pow, Nat.mod_eq_of_lt hfits]

theorem red5_toNat (r : Byte) : (red5 r).toNat = r.toNat / 8 := reduced_toNat rfl r

theorem green6_toNat (g : Byte) : (green6 g).toNat = g.toNat / 4 := reduced_toNat rfl g

theorem blue5_toNat (b : Byte) : (blue5 b).toNat = b.toNat / 8 := reduced_toNat rfl b

/-- In a 16-bit word a reduced channel is the channel shifted there: the order of shifting and widening does not matter. -/
theorem reduced_setWidth {k m : Nat} (hkm : k + m = 8) (c : Byte) :
    ((c >>> k).setWidth m).setWidth 16 = c.setWidth 16 >>> k := by
  apply BitVec.eq_of_toNat_eq
  rw [BitVec.toNat_setWidth, reduced_toNat hkm, BitVec.toNat_ushiftRight, BitVec.toNat_setWidth, Nat.shiftRight_eq_div_pow,
    Nat.mod_eq_of_lt (a := c.toNat) (by omega), Nat.mod_eq_of_lt ((Nat.div_le_self _ _).trans_lt (by omega))]

/-! ### The packed value -/

/-- The layout `{red8[7:3], green8[7:2], blue8[7:3]}`, in the reduced channels (40_color_converter.md R71). -/
theorem pack565_eq_append (p : Pixel) : pack565 p = red5 p.r ++ green6 p.g ++ blue5 p.b := by
  rw [pack565, ← BitVec.setWidth_eq (red5 p.r ++ green6 p.g ++ blue5 p.b),
    BitVec.setWidth_append_append_eq_shiftLeft_setWidth_or]

/-- The formula on the unreduced channels (40_color_converter.md R72). -/
theorem pack565_eq_formula (p : Pixel) :
    pack565 p = ((p.r.setWidth 16 >>> 3) <<< 11) ||| ((p.g.setWidth 16 >>> 2) <<< 5) ||| (p.b.setWidth 16 >>> 3) := by
  rw [← reduced_setWidth (m := 5) rfl p.r, ← reduced_setWidth (m := 6) rfl p.g, ← reduced_setWidth (m := 5) rfl p.b]
  rfl

/-- The fields do not overlap, so the OR is a sum (40_color_converter.md R72). -/
theorem pack565_toNat (p : Pixel) :
    (pack565 p).toNat = p.r.toNat / 8 * 2048 + p.g.toNat / 4 * 32 + p.b.toNat / 8 := by
  have hg := (green6 p.g).isLt
  have hb := (blue5 p.b).isLt
  rw [pack565_eq_append, BitVec.toNat_append, BitVec.toNat_append, ← Nat.shiftLeft_add_eq_or_of_lt hg,
    ← Nat.shiftLeft_add_eq_or_of_lt hb, red5_toNat, green6_toNat, blue5_toNat]
  simp only [Nat.shiftLeft_eq]
  omega

/-- Settles O7, each clause by its own lemma; a reduction is the field `extractLsb'` of its channel by definition. -/
theorem pack565IsTheLayout : Obligations.Pack565IsTheLayout := fun p =>
  ⟨red5_toNat p.r, green6_toNat p.g, blue5_toNat p.b, pack565_eq_append p, pack565_eq_formula p, pack565_toNat p⟩

/-! ### The classes of `pack565` -/

/-- Two pixels pack alike exactly when they have the same kept bits: the sum determines its three fields. -/
theorem pack565_eq_iff (p q : Pixel) : pack565 p = pack565 q ↔
    p.r.toNat / 8 = q.r.toNat / 8 ∧ p.g.toNat / 4 = q.g.toNat / 4 ∧ p.b.toNat / 8 = q.b.toNat / 8 := by
  rw [← BitVec.toNat_inj, pack565_toNat, pack565_toNat]
  omega

/-- A pixel of a packed value's class: its fields as the kept bits, and zero for the bits the reduction drops. -/
def pixelOfPacked (v : Packed) : Pixel := ⟨v.extractLsb' 11 5 ++ 0#3, v.extractLsb' 5 6 ++ 0#2, v.extractLsb' 0 5 ++ 0#3⟩

theorem pack565_pixelOfPacked (v : Packed) : pack565 (pixelOfPacked v) = v := by
  apply BitVec.eq_of_toNat_eq
  simp only [pack565_toNat, pixelOfPacked, BitVec.toNat_append, BitVec.extractLsb'_toNat, BitVec.toNat_ofNat, Nat.zero_mod,
    Nat.or_zero, Nat.shiftRight_eq_div_pow, Nat.shiftLeft_eq]
  omega

/-- Each field of the sum grows with its channel. -/
theorem pack565_mono {p q : Pixel} (hr : p.r ≤ q.r) (hg : p.g ≤ q.g) (hb : p.b ≤ q.b) : pack565 p ≤ pack565 q := by
  rw [BitVec.le_def] at hr hg hb ⊢
  rw [pack565_toNat, pack565_toNat]
  gcongr

/-- Settles O8: the classes, the onto law by `pixelOfPacked`, and monotonicity. -/
theorem pack565Classes : Obligations.Pack565Classes :=
  ⟨pack565_eq_iff, fun v => ⟨pixelOfPacked v, pack565_pixelOfPacked v⟩, fun _ _ => pack565_mono⟩

/-! ### `CONVERT` -/

/-- Whatever the state, `CONVERT` leaves at a place of CF the packed value of PB at that place, or nothing where PB has nothing. -/
theorem cfAt_of_convert (hs : exec .convert s = .next t) : t.cfAt x y = (s.pb.get? x y).map pack565 := by
  rw [exec_convert, execConvert_eq] at hs
  cases hs
  exact Raster.get?_map pack565 s.pb

/-- Settles O9: the pixels by `cfAt_of_convert`, the rest by the fields of the state that `CONVERT` leaves. -/
theorem convertConvertsTheBuffer : Obligations.ConvertConvertsTheBuffer := by
  intro s
  refine ⟨_, execConvert_eq, rfl, fun x y p hp => ?pixel, fun x y hnone => ?outside, rfl, rfl, rfl, rfl, rfl, rfl, rfl, rfl, rfl, rfl, rfl⟩
  case pixel => rw [cfAt_of_convert execConvert_eq, hp, Option.map_some, pack565_eq_formula]
  case outside => rw [cfAt_of_convert execConvert_eq, hnone, Option.map_none]

/-- Settles O10: on both sides CF at the place is the packed value of PB at the place. -/
theorem convertIsElementwise : Obligations.ConvertIsElementwise := by
  intro s s' t t' x y heq hs hs'
  rw [cfAt_of_convert hs, cfAt_of_convert hs', heq]

end Sys2Proof.Machine
end

section
/-! SUPPORT. Proofs of the family 41_frame_comparator.md: the mask of two frames element by element, what `COMPARE` leaves and does
not look at, and the empty mask of a buffer that has not changed since its `COMMIT`. -/

namespace Sys2Proof.Machine

variable {s t : State} {x y : Nat}

/-! ### The mask of two frames -/

/-- An element of the mask is whether the two frames differ there (41_frame_comparator.md R80). -/
theorem diffFrame_get? (cur prev : Raster Packed) :
    (diffFrame cur prev).get? x y = (cur.get? x y).bind fun u => (prev.get? x y).map (diff u) :=
  Raster.get?_zip diff cur prev

/-- ANY of a mask of two frames: they differ somewhere (10_state.md R23). -/
theorem anyTrue_diffFrame_iff (cur prev : Raster Packed) :
    (diffFrame cur prev).anyTrue = true ↔ ∃ x y u v, cur.get? x y = some u ∧ prev.get? x y = some v ∧ u ≠ v := by
  simp [Raster.anyTrue_iff, diffFrame_get?, Option.bind_eq_some_iff, diff]

theorem diffFrame_self_get? (c : Raster Packed) : (diffFrame c c).get? x y = (c.get? x y).map fun _ => false := by
  rw [diffFrame_get?]
  cases c.get? x y <;> simp [diff]

theorem anyTrue_diffFrame_self (c : Raster Packed) : (diffFrame c c).anyTrue = false := by
  rw [← Bool.not_eq_true, anyTrue_diffFrame_iff]
  rintro ⟨x, y, u, v, hu, hv, hne⟩
  exact hne (Option.some.inj (hu.symm.trans hv))

/-! ### `COMPARE` -/

/-- What `COMPARE` leaves at a place of DM: by the presence of the cache, the difference of CF and PF at that place, or 1 on the panel
(41_frame_comparator.md R82). -/
theorem dmAt_of_compare (hcfv : s.cfv = true) (hc : exec .compare s = .next t) :
    t.dmAt x y =
      if s.pfv then (s.cfAt x y).bind fun u => (s.pfAt x y).map (diff u) else if x < s.w ∧ y < s.h then some true else none := by
  obtain ⟨cur, hcf⟩ := Option.isSome_iff_exists.mp hcfv
  cases hpf : s.pf with
  | none =>
    cases (execCompare_absent hcf hpf).symm.trans hc
    simpa [State.dmAt, State.pfv, hpf] using Raster.get?_const true
  | some prev =>
    cases (execCompare_present hcf hpf).symm.trans hc
    simpa [State.dmAt, State.pfv, State.cfAt, State.pfAt, hcf, hpf] using diffFrame_get? cur prev

/-- Settles O11, by the presence of CF and of PF. -/
theorem compareComputesTheMask : Obligations.CompareComputesTheMask := by
  intro s
  refine ⟨fun hcfv => ?refused, fun hcfv => ?computed⟩
  case refused =>
    rw [exec_compare, execCompare_noFrame (by simpa [State.cfv] using hcfv)]
    exact raise_refusedWith .seq s
  case computed =>
    obtain ⟨cur, hcf⟩ := Option.isSome_iff_exists.mp hcfv
    cases hpf : s.pf with
    | none =>
      have hpfv : s.pfv = false := by simp [State.pfv, hpf]
      have hc := execCompare_absent hcf hpf
      refine ⟨_, hc, rfl, rfl, by simp [hpfv], fun _ => ⟨rfl, rfl, fun x y hx hy => ?ones⟩, rfl, rfl, hpf, rfl, rfl, rfl, rfl, rfl⟩
      case ones => simp [dmAt_of_compare hcfv hc, hpfv, hx, hy]
    | some prev =>
      have hpfv : s.pfv = true := by simp [State.pfv, hpf]
      have hc := execCompare_present hcf hpf
      refine ⟨_, hc, rfl, rfl, fun _ => ⟨rfl, fun x y u v hu hv => ?element, ?any⟩, by simp [hpfv], rfl, rfl, hpf, rfl, rfl, rfl,
        rfl, rfl⟩
      case element => simp [dmAt_of_compare hcfv hc, hpfv, hu, hv, diff]
      case any => simpa [State.cfAt, State.pfAt, hcf, hpf] using anyTrue_diffFrame_iff cur prev

/-- `COMPARE` neither reads nor changes PB: it commutes with any write of the whole of PB (41_frame_comparator.md R81). -/
theorem execCompare_setBuffer (s : State) (pb : Raster Pixel) :
    execCompare (s.setBuffer pb) = andThen (execCompare s) fun t => .next (t.setBuffer pb) := by
  cases hcf : s.cf with
  | none =>
    rw [execCompare_noFrame hcf, execCompare_noFrame (s := s.setBuffer pb) hcf, raise_eq, raise_eq, recordError_eq, recordError_eq]
    rfl
  | some cur =>
    cases hpf : s.pf with
    | none =>
      rw [execCompare_absent hcf hpf, execCompare_absent (s := s.setBuffer pb) hcf hpf]
      rfl
    | some prev =>
      rw [execCompare_present hcf hpf, execCompare_present (s := s.setBuffer pb) hcf hpf]
      rfl

/-- Settles O12, from `execCompare_setBuffer`. -/
theorem compareNeverReadsTheBuffer : Obligations.CompareNeverReadsTheBuffer := by
  intro s t t' pb' hs hs'
  have hcommutes := execCompare_setBuffer s pb'
  rw [← exec_compare (s := s), hs, andThen_next] at hcommutes
  cases hcommutes.symm.trans hs'
  rfl

/-- Settles O13: both masks at the place are the one expression of `dmAt_of_compare`. -/
theorem compareIsElementwise : Obligations.CompareIsElementwise := by
  intro s s' t t' x y hcfv hcfv' hw hh hpfv hcf hpf hs hs'
  rw [dmAt_of_compare hcfv hs, dmAt_of_compare hcfv' hs', hw, hh, hpfv, hcf, hpf]

/-! ### A buffer that has not changed since its `COMMIT` -/

/-- `CONVERT; COMPARE; COMMIT` makes the conversion of PB the cache (42_cache_control.md R88). -/
theorem update_true_cached (hs : s.Shaped) :
    ∃ u, update true s = .next u ∧ u.Shaped ∧ u.w = s.w ∧ u.h = s.h ∧ u.pb = s.pb ∧ u.pf = some (convertFrame s.pb) := by
  obtain ⟨u, hu, hc⟩ := convertCompare_compared hs
  have hshaped : ((u.dropMask.setCache (some (convertFrame s.pb))).respond .ok).Shaped :=
    (hc.shaped.dropMask.setCache fun _ hp => hc.shaped.cf _ (hc.cf.trans hp)).respond _
  exact ⟨_, by rw [update, hu, andThen_next, finish_true hc.cf], hshaped, hc.w, hc.h, hc.pb, rfl⟩

/-- `CONVERT; COMPARE` while the cache is the conversion of PB: a mask of zeros, with ANY and FULL 0 (41_frame_comparator.md R82). -/
theorem convertCompare_unchanged (hs : s.Shaped) (hpf : s.pf = some (convertFrame s.pb)) :
    ∃ t, convertCompare s = .next t ∧ t.any = false ∧ t.full = false ∧ t.dmv = true ∧
      ∀ x y, x < s.w → y < s.h → t.dmAt x y = some false := by
  refine ⟨_, convertCompare_present hpf, anyTrue_diffFrame_self _, rfl, rfl, fun x y hx hy => ?_⟩
  obtain ⟨v, hv⟩ := Raster.exists_get? hs.convertFrame hx hy
  exact (diffFrame_self_get? _).trans (by rw [hv, Option.map_some])

/-- Settles O14: the first three commands are a delivered update, the last two compare its PB with its cache. -/
theorem noChangeGivesAnEmptyMask : Obligations.NoChangeGivesAnEmptyMask := by
  intro s hs
  obtain ⟨u, hu, hshaped, hw, hh, hpb, hpf⟩ := update_true_cached hs
  obtain ⟨t, ht, hmask⟩ := convertCompare_unchanged hshaped (hpb ▸ hpf)
  refine ⟨t, ?_, hw ▸ hh ▸ hmask⟩
  change andThen (andThen (update true s) (exec .convert)) (exec .compare) = .next t
  rw [hu, andThen_next]
  exact ht

end Sys2Proof.Machine
end

section
/-! SUPPORT. Proofs of the family 42_cache_control.md: what `COMMIT` and `INVALIDATE` leave, the writers of PF, and what an update,
failed or delivered, does to the cache and to the panel. -/

namespace Sys2Proof.Machine

variable {s t u : State} {x y : Nat}

/-! ### `COMMIT` and `INVALIDATE` -/

/-- Settles O15, by the presence of CF. -/
theorem commitCopiesTheFrame : Obligations.CommitCopiesTheFrame := by
  intro s
  refine ⟨fun hcfv => ?refused, fun hcfv => ?copied⟩
  case refused =>
    rw [exec_commit, execCommit_noFrame (by simpa [State.cfv] using hcfv)]
    exact raise_refusedWith .seq s
  case copied =>
    obtain ⟨cur, hcf⟩ := Option.isSome_iff_exists.mp hcfv
    exact ⟨_, execCommit_frame hcf, rfl, rfl, fun x y => by simp [State.pfAt, State.cfAt, hcf], rfl, rfl, rfl, rfl, rfl, rfl, rfl,
      rfl, rfl, rfl⟩

/-- The state `INVALIDATE` leaves. -/
theorem execInvalidate_eq : execInvalidate s = .next ((s.dropMask.setCache none).respond .ok) := rfl

/-- Settles O16, by the fields of the state that `INVALIDATE` leaves. -/
theorem invalidateMakesTheCacheAbsent : Obligations.InvalidateMakesTheCacheAbsent := fun _ =>
  ⟨_, execInvalidate_eq, rfl, rfl, fun _ _ => rfl, rfl, rfl, rfl, rfl, rfl, rfl, rfl, rfl, rfl, rfl⟩

/-- `CONVERT; COMPARE` after `INVALIDATE` runs with an absent cache. -/
theorem invalidate_convert_compare (s : State) :
    andThen (andThen (exec .invalidate s) (exec .convert)) (exec .compare) =
      convertCompare ((s.dropMask.setCache none).respond .ok) := rfl

/-- `CONVERT; COMPARE` with an absent cache marks the whole panel (41_frame_comparator.md R84). -/
theorem convertCompare_absent_allDirty (hpf : s.pf = none) :
    ∃ u, convertCompare s = .next u ∧ u.full = true ∧ u.any = true ∧ (∀ x y, x < s.w → y < s.h → u.dmAt x y = some true) ∧
      u.w = s.w ∧ u.h = s.h ∧ u.cf = some (convertFrame s.pb) := by
  refine ⟨_, convertCompare_absent hpf, rfl, rfl, fun x y hx hy => ?ones, rfl, rfl, rfl⟩
  case ones => simp [State.dmAt, Raster.get?_const, hx, hy]

/-- Settles O17: after `INVALIDATE` the cache is absent, and the rectangle list is that of FULL. -/
theorem invalidateForcesAFullRepaint : Obligations.InvalidateForcesAFullRepaint := by
  intro s d
  obtain ⟨t, ht, hfull, hany, hones, hw, hh, hcf⟩ :=
    convertCompare_absent_allDirty (s := (s.dropMask.setCache none).respond .ok) rfl
  refine ⟨t, _, (invalidate_convert_compare s).trans ht, hfull, hany, hones, ?list, execCommit_frame hcf, rfl⟩
  case list =>
    rw [rectList_full d hfull, hw, hh]
    rfl

/-- Settles O18, over the cases of a step. -/
theorem cacheChangesInTwoWays : Obligations.CacheChangesInTwoWays := by
  intro s t hs
  cases step_effect hs with
  | waited => exact .inl rfl
  | reset hr | resetFreePb hr => exact .inr (.inr ⟨.inr hr, rfl⟩)
  | operated op rest hp he =>
    cases he with
    | committed hop cur hcf =>
      rw [setPending_cf] at hcf
      exact .inr (.inl ⟨nextIs_of_isCommand hp hop, by simp [State.cfv, hcf], hcf.symm⟩)
    | invalidated hop => exact .inr (.inr ⟨.inl (nextIs_of_isCommand hp hop), rfl⟩)
    | refused | answered | converted | comparedAbsent | comparedPresent | stored => exact .inl (by simp)

/-! ### A failed transmission -/

/-- `CONVERT; COMPARE` writes neither PB nor PF, so a second one leaves the state of the first (42_cache_control.md R91). -/
theorem convertCompare_repeat (s : State) : ∃ u, convertCompare s = .next u ∧ u.pf = s.pf ∧ convertCompare u = .next u := by
  cases hpf : s.pf with
  | none => exact ⟨_, convertCompare_absent hpf, hpf, convertCompare_absent hpf⟩
  | some prev => exact ⟨_, convertCompare_present hpf, hpf, convertCompare_present hpf⟩

/-- Settles O47: a failed update ends where `CONVERT; COMPARE` does, and the retry leaves that very state. -/
theorem failedUpdateKeepsTheCache : Obligations.FailedUpdateKeepsTheCache := by
  intro s d
  obtain ⟨u, hu, hpf, hretry⟩ := convertCompare_repeat s
  exact ⟨u, u, u, hu, by rw [update, hu, andThen_next, finish_false], hpf, hretry, rfl, rfl⟩

/-! ### The rectangles cover the dirty pixels -/

/-- The bands of a scan leave out no index from the start of the running band on (45_downstream_contract.md R107). -/
theorem exists_mem_bandsFrom {d top bot i : Nat} {rest : List Nat} (hsorted : (bot :: rest).Pairwise (· < ·)) (htop : top ≤ bot)
    (hi : (top ≤ i ∧ i ≤ bot) ∨ i ∈ rest) : ∃ band ∈ bandsFrom d top bot rest, band.1 ≤ i ∧ i ≤ band.2 := by
  induction rest generalizing top bot with
  | nil => exact ⟨_, List.mem_singleton_self _, hi.resolve_right List.not_mem_nil⟩
  | cons r rest ih =>
    obtain ⟨hbot, hrest⟩ := List.pairwise_cons.mp hsorted
    have hr : bot < r := hbot r List.mem_cons_self
    rw [List.mem_cons] at hi
    rw [bandsFrom]
    split
    · refine ih hrest (by omega) ?_
      rcases hi with hband | rfl | hmem
      · exact .inl (by omega)
      · exact .inl (by omega)
      · exact .inr hmem
    · rcases hi with hband | hi
      · exact ⟨_, List.mem_cons_self, hband⟩
      · obtain ⟨band, hmem, hin⟩ := ih hrest le_rfl (hi.imp_left fun heq => by omega)
        exact ⟨band, List.mem_cons_of_mem _ hmem, hin⟩

theorem exists_mem_bands {d i : Nat} {indices : List Nat} (hsorted : indices.Pairwise (· < ·)) (hi : i ∈ indices) :
    ∃ band ∈ bands d indices, band.1 ≤ i ∧ i ≤ band.2 := by
  cases indices with
  | nil => cases hi
  | cons first rest => exact exists_mem_bandsFrom hsorted le_rfl ((List.mem_cons.mp hi).imp_left fun heq => by omega)

theorem covered_iff {rs : List Rect} : covered rs x y = true ↔ ∃ q ∈ rs, q.x1 ≤ x ∧ x ≤ q.x2 ∧ q.y1 ≤ y ∧ y ≤ q.y2 := by
  simp [covered, Rect.contains, and_assoc]

/-- Every dirty pixel of the panel is covered (45_downstream_contract.md R102). -/
theorem covered_rects {w h : Nat} (d : Nat) {m : Raster Bool} (hx : x < w) (hy : y < h) (hm : m.get? x y = some true) :
    covered (rects w h d m) x y = true := by
  obtain ⟨rb, hrb, htop, hbot⟩ := exists_mem_bands (d := d) (dirtyRows_sorted w h m) (mem_dirtyRows.mpr ⟨hy, x, hx, hm⟩)
  have hcol : x ∈ dirtyCols w m rb.1 rb.2 := (mem_dirtyCols (htop.trans hbot)).mpr ⟨hx, y, htop, hbot, hm⟩
  obtain ⟨cb, hcb, hleft, hright⟩ := exists_mem_bands (d := d) (dirtyCols_sorted w m rb.1 rb.2) hcol
  exact covered_iff.mpr ⟨_, List.mem_flatMap.mpr ⟨rb, hrb, List.mem_map.mpr ⟨cb, hcb, rfl⟩⟩, hleft, hright, htop, hbot⟩

/-- The list the host forms from FULL, ANY and DM covers what DM marks (45_downstream_contract.md R102, R105, R108). -/
theorem State.Inv.covered_rectList (hu : u.Inv) (d : Nat) (hx : x < u.w) (hy : y < u.h) (hdirty : u.dmAt x y = some true) :
    covered (rectList d u) x y = true := by
  cases hfull : u.full with
  | true =>
    rw [rectList_full d hfull]
    exact covered_iff.mpr ⟨_, List.mem_singleton_self _, Nat.zero_le x, Nat.le_sub_one_of_lt hx, Nat.zero_le y,
      Nat.le_sub_one_of_lt hy⟩
  | false =>
    obtain ⟨m, hdm, hm⟩ := Option.bind_eq_some_iff.mp hdirty
    have hany : u.any = true := (hu.anyIsOr (by simp [State.dmv, hdm])).mpr ⟨x, y, hx, hy, hdirty⟩
    simpa [rectList, hfull, hany, hdm] using covered_rects d hx hy hm

/-! ### The panel -/

/-- `CONVERT; COMPARE` establishes the invariants: it needs only the shapes of what it reads. -/
theorem State.Shaped.inv_convertCompare (hs : s.Shaped) (hu : convertCompare s = .next u) : u.Inv := by
  have hconverted : ((s.dropMask.setFrame (Machine.convertFrame s.pb)).respond .ok).Shaped :=
    (hs.dropMask.setFrame hs.convertFrame).respond _
  cases hpf : s.pf with
  | none =>
    cases (convertCompare_absent hpf).symm.trans hu
    exact (hconverted.inv_setMask_absent rfl hpf).respond _
  | some prev =>
    cases (convertCompare_present hpf).symm.trans hu
    exact (hconverted.inv_setMask_present rfl hpf).respond _

/-- Where the update sends nothing, a mirrored panel shows the frame already; with an absent cache there is no such pixel
(42_cache_control.md R92, R95). -/
theorem agree_of_not_covered {d : Nat} {panel : Raster Packed} (hs : s.Shaped) (hpanel : s.pf = none ∨ s.Synced panel)
    (hu : convertCompare s = .next u) (hc : Compared s u) (hx : x < s.w) (hy : y < s.h)
    (hcov : covered (rectList d u) x y = false) : panel.get? x y = (convertFrame s.pb).get? x y := by
  have hinv := hs.inv_convertCompare hu
  rw [← hc.w] at hx
  rw [← hc.h] at hy
  have hclean : u.dmAt x y ≠ some true := fun hdirty => by
    rw [hinv.covered_rectList d hx hy hdirty] at hcov
    cases hcov
  rcases hpanel with habsent | hsynced
  · have hfull : u.full = true := by simp [hc.full, State.pfv, habsent]
    exact absurd ((hinv.fullIsAllDirty hfull).2 x y hx hy) hclean
  · have hpf : u.pf = some panel := hc.pf.trans hsynced
    obtain ⟨cur, prev, hcur, hprev, hdm⟩ := hinv.maskIsExact hc.dmv (by simp [State.pfv, hpf]) x y hx hy
    have heq : cur = prev := by simpa [hdm] using hclean
    simp only [State.cfAt, hc.cf, State.pfAt, hpf, Option.bind_some] at hcur hprev
    rw [hcur, hprev, heq]

section Paint

variable {w h : Nat} {panel cf : Raster Packed} {rs : List Rect}

/-- A delivered pixel takes the frame's value, any other stays (45_downstream_contract.md R112). -/
theorem paint_get? (panel cf : Raster Packed) (rs : List Rect) (x y : Nat) :
    (paint panel cf rs).get? x y = (panel.get? x y).map fun v => if covered rs x y then (cf.get? x y).getD v else v := by
  simp only [Raster.get?, paint, List.getElem?_mapIdx]
  cases panel[y]? <;> simp

theorem paint_wf (cf : Raster Packed) (rs : List Rect) (hpanel : panel.wf w h = true) : (paint panel cf rs).wf w h = true := by
  obtain ⟨hlength, hrows⟩ := (Raster.wf_iff panel).mp hpanel
  refine (Raster.wf_iff _).mpr ⟨by simpa [paint] using hlength, fun row hrow => ?_⟩
  obtain ⟨y, hy, rfl⟩ := List.mem_mapIdx.mp hrow
  simpa using hrows _ (List.getElem_mem hy)

/-- A panel that shows the frame wherever no rectangle is shows it everywhere once the rectangles are delivered. -/
theorem paint_eq_frame (hpanel : panel.wf w h = true) (hcf : cf.wf w h = true)
    (hagree : ∀ x y, x < w → y < h → covered rs x y = false → panel.get? x y = cf.get? x y) : paint panel cf rs = cf := by
  refine Raster.ext_of_wf (paint_wf cf rs hpanel) hcf fun x y hx hy => ?_
  obtain ⟨old, hold⟩ := Raster.exists_get? hpanel hx hy
  obtain ⟨new, hnew⟩ := Raster.exists_get? hcf hx hy
  rw [paint_get?, hold, hnew, Option.map_some, Option.getD_some]
  cases hcov : covered rs x y with
  | true => rfl
  | false => exact hold.symm.trans ((hagree x y hx hy hcov).trans hnew)

end Paint

/-- Settles O48: outside the rectangles the broken panel is the old one, which shows the frame there. -/
theorem sameFrameRetryRepairsThePanel : Obligations.SameFrameRetryRepairsThePanel := by
  intro s u d panel broken cf hs hsynced hu hcf hbroken _ hkept
  obtain ⟨u', hu', hc⟩ := convertCompare_compared hs
  cases hu'.symm.trans hu
  cases hc.cf.symm.trans hcf
  exact paint_eq_frame hbroken hs.convertFrame fun x y hx hy hcov =>
    (hkept x y hcov).trans (agree_of_not_covered hs (.inr hsynced) hu hc hx hy hcov)

/-- Settles O50: the rectangles bring the panel to the frame, which `COMMIT` makes the cache. -/
theorem updateBringsThePanelToTheBuffer : Obligations.UpdateBringsThePanelToTheBuffer := by
  intro s d panel hs hwf hpanel
  obtain ⟨u, hu, hc⟩ := convertCompare_compared hs
  have hpaint : paint panel (convertFrame s.pb) (rectList d u) = convertFrame s.pb :=
    paint_eq_frame hwf hs.convertFrame fun x y hx hy => agree_of_not_covered hs hpanel hu hc hx hy
  refine ⟨u, _, hu, finish_true hc.cf, hpaint, ?synced, ?fresh⟩
  case synced => rw [hpaint]; rfl
  case fresh => simp [State.Fresh, hc.cf, hc.pb]

end Sys2Proof.Machine
end

section
/-! SUPPORT. Proofs of the family 43_pixel_buffer_fill.md: the state `FILL` leaves, and that writes of one colour to every place of
the panel leave the same. -/

namespace Sys2Proof.Machine

variable {s : State}

/-- The state `FILL` leaves. -/
theorem execFill_eq (r g b : Byte) :
    execFill r g b s = .next ((s.setBuffer (Raster.const s.w s.h ⟨r, g, b⟩)).respond .ok) := rfl

/-- Settles O19: PB is the constant raster of the panel's size, the rest by the fields of the state that `FILL` leaves. -/
theorem fillWritesEveryPixel : Obligations.FillWritesEveryPixel := fun _ r g b =>
  ⟨_, execFill_eq r g b, rfl, fun _ _ => Raster.get?_const _, rfl, rfl, rfl, rfl, rfl, rfl, rfl, rfl, rfl, rfl⟩

/-! ### `FILL` as a sequence of `PBW` -/

section Places

variable {α : Type} {w h x y : Nat}

/-- A store after one value is written at each of the places, in their order. -/
def Raster.setAll (store : Raster α) (places : List (Coord × Coord)) (v : α) : Raster α :=
  places.foldl (fun store c => store.set c.1.toNat c.2.toNat v) store

theorem Raster.setAll_cons (store : Raster α) (c : Coord × Coord) (rest : List (Coord × Coord)) (v : α) :
    store.setAll (c :: rest) v = (store.set c.1.toNat c.2.toNat v).setAll rest v := rfl

theorem Raster.wf_setAll {store : Raster α} (places : List (Coord × Coord)) (v : α) (hwf : store.wf w h = true) :
    (store.setAll places v).wf w h = true := by
  induction places generalizing store with
  | nil => exact hwf
  | cons c rest ih => exact ih (Raster.wf_set v hwf)

/-- Only whether a place is among those written counts, not where in the list or how often. -/
theorem Raster.get?_setAll (store : Raster α) (places : List (Coord × Coord)) (v : α) :
    (store.setAll places v).get? x y =
      if ∃ c ∈ places, x = c.1.toNat ∧ y = c.2.toNat then (store.get? x y).map fun _ => v else store.get? x y := by
  induction places generalizing store with
  | nil => simp [Raster.setAll]
  | cons c rest ih =>
    rw [Raster.setAll_cons, ih]
    by_cases hc : x = c.1.toNat ∧ y = c.2.toNat
    · obtain ⟨rfl, rfl⟩ := hc
      simp [Raster.get?_set_self, Function.comp_def]
    · simp [Raster.get?_set_other _ _ hc, hc]

/-- Writing every place of the panel makes the store constant. -/
theorem Raster.setAll_eq_const {store : Raster α} {places : List (Coord × Coord)} (v : α) (hwf : store.wf w h = true)
    (hall : ∀ x y, x < w → y < h → ∃ c ∈ places, x = c.1.toNat ∧ y = c.2.toNat) :
    store.setAll places v = Raster.const w h v := by
  refine Raster.ext_of_wf (Raster.wf_setAll places v hwf) (Raster.wf_const v) fun x y hx hy => ?_
  obtain ⟨old, hold⟩ := Raster.exists_get? hwf hx hy
  rw [Raster.get?_setAll, if_pos (hall x y hx hy), hold, Raster.get?_const, if_pos ⟨hx, hy⟩, Option.map_some]

end Places

/-- A sequence of `PBW` of one colour, one to each place. -/
def writePlaces (r g b : Byte) (places : List (Coord × Coord)) (o : Result) : Result :=
  places.foldl (fun o c => andThen o (execPort (.pbw c.1 c.2 r g b))) o

/-- One `PBW` on the panel, at the head of a sequence. -/
theorem writePlaces_cons {c : Coord × Coord} (r g b : Byte) (rest : List (Coord × Coord))
    (hc : c.1.toNat < s.w ∧ c.2.toNat < s.h) :
    writePlaces r g b (c :: rest) (.next s) =
      writePlaces r g b rest (.next ((s.setBuffer (s.pb.set c.1.toNat c.2.toNat ⟨r, g, b⟩)).respond .ok)) :=
  congrArg (writePlaces r g b rest) (execPbw_inside r g b ((inside_iff c.1 c.2).mpr hc))

/-- A sequence of at least one write on the panel answers `OK` and changes PB only. -/
theorem writePlaces_next (r g b : Byte) {places : List (Coord × Coord)} (hne : places ≠ [])
    (hin : ∀ c ∈ places, c.1.toNat < s.w ∧ c.2.toNat < s.h) :
    writePlaces r g b places (.next s) = .next ((s.setBuffer (s.pb.setAll places ⟨r, g, b⟩)).respond .ok) := by
  induction places generalizing s with
  | nil => contradiction
  | cons c rest ih =>
    obtain ⟨hc, hrest⟩ := List.forall_mem_cons.mp hin
    rw [writePlaces_cons r g b rest hc]
    cases rest with
    | nil => rfl
    | cons c' rest' => exact ih (List.cons_ne_nil c' rest') hrest

/-- Settles O20: the panel has a place, so some write answers `OK`; together the writes make PB the constant raster. -/
theorem fillIsAWriteOfEveryPixel : Obligations.FillIsAWriteOfEveryPixel := by
  intro s r g b places hs hin hall
  have hpanel := hs.panel
  simp only [panelWf, Bool.and_eq_true, decide_eq_true_eq] at hpanel
  obtain ⟨⟨⟨hw, -⟩, hh⟩, -⟩ := hpanel
  have hne : places ≠ [] := List.ne_nil_of_mem (hall 0 0 hw hh)
  have hcovered : ∀ x y, x < s.w → y < s.h → ∃ c ∈ places, x = c.1.toNat ∧ y = c.2.toNat := fun x y hx hy =>
    ⟨_, hall x y hx hy, (hs.coord_toNat (.inl hx)).symm, (hs.coord_toNat (.inr hy)).symm⟩
  rw [exec_fill, execFill_eq, ← Raster.setAll_eq_const _ hs.pb hcovered]
  exact writePlaces_next r g b hne hin

end Sys2Proof.Machine
end

section
/-! SUPPORT. Proofs of the family 45_downstream_contract.md: the bands of a scan and the rectangles they form, the chunks of a data
phase, the payload's places, what the host reads, and how an update ends. -/

namespace Sys2Proof.Machine

variable {s u : State} {h h' : Session}

/-! ### Bands -/

/-- Settles O42: the scan of two indices is one comparison. -/
theorem bandGapTest : Obligations.BandGapTest := by
  intro d r k _
  simp only [bands, bandsFrom, Nat.add_lt_add_iff_left]

/-- The bands of a scan follow one another (45_downstream_contract.md R107). -/
theorem bandsFrom_pairwise {d top bot : Nat} {rest : List Nat} (hsorted : (bot :: rest).Pairwise (· < ·)) :
    (bandsFrom d top bot rest).Pairwise fun band band' => band.2 < band'.1 := by
  induction rest generalizing top bot with
  | nil => exact List.pairwise_singleton _ _
  | cons r rest ih =>
    obtain ⟨hbot, hrest⟩ := List.pairwise_cons.mp hsorted
    rw [bandsFrom]
    split
    · exact ih hrest
    · exact List.pairwise_cons.mpr ⟨fun band hmem => hbot _ (mem_bandsFrom le_rfl hrest hmem).1, ih hrest⟩

theorem bands_pairwise (d : Nat) {indices : List Nat} (hsorted : indices.Pairwise (· < ·)) :
    (bands d indices).Pairwise fun band band' => band.2 < band'.1 := by
  cases indices with
  | nil => exact List.Pairwise.nil
  | cons first rest => exact bandsFrom_pairwise hsorted

/-- Two bands of one set are the same, or one follows the other. -/
theorem bands_eq_or_apart {d : Nat} {indices : List Nat} (hsorted : indices.Pairwise (· < ·)) {band band' : Nat × Nat}
    (hband : band ∈ bands d indices) (hband' : band' ∈ bands d indices) :
    band = band' ∨ band.2 < band'.1 ∨ band'.2 < band.1 := by
  have hsymm : Std.Symm fun b b' : Nat × Nat => b.2 < b'.1 ∨ b'.2 < b.1 := ⟨fun _ _ => Or.symm⟩
  have hapart : (bands d indices).Pairwise fun b b' => b.2 < b'.1 ∨ b'.2 < b.1 := (bands_pairwise d hsorted).imp Or.inl
  exact or_iff_not_imp_left.mpr (hapart.forall hband hband')

/-- The index is in the set and at least `d` above every smaller one: a band starts here (45_downstream_contract.md R107). -/
def StartsBand (d : Nat) (indices : List Nat) (i : Nat) : Prop := i ∈ indices ∧ ∀ j ∈ indices, j < i → j + d ≤ i

/-- A start for a merge distance is one for a smaller distance in any part of the set that has it. -/
theorem StartsBand.mono {d d' i : Nat} {indices part : List Nat} (hstart : StartsBand d' indices i) (hd : d ≤ d')
    (hpart : part ⊆ indices) (hi : i ∈ part) : StartsBand d part i :=
  ⟨hi, fun j hj hlt => (Nat.add_le_add_left hd j).trans (hstart.2 j (hpart hj) hlt)⟩

/-- The first index of a set is a start, any other by its distance from the smaller ones. -/
theorem startsBand_cons {d first i : Nat} {rest : List Nat} (hsorted : (first :: rest).Pairwise (· < ·)) :
    StartsBand d (first :: rest) i ↔ i = first ∨ (i ∈ rest ∧ ∀ j ∈ first :: rest, j < i → j + d ≤ i) := by
  constructor
  · rintro ⟨hi, hgap⟩
    exact (List.mem_cons.mp hi).imp_right fun hi => ⟨hi, hgap⟩
  · rintro (rfl | ⟨hi, hgap⟩)
    · have habove := (List.pairwise_cons.mp hsorted).1
      exact ⟨List.mem_cons_self, List.forall_mem_cons.mpr
        ⟨fun hlt => absurd hlt (lt_irrefl i), fun j hj hlt => absurd (habove j hj) hlt.asymm⟩⟩
    · exact ⟨List.mem_cons_of_mem first hi, hgap⟩

theorem exists_bandsFrom_fst_iff {d top bot i : Nat} {rest : List Nat} (hsorted : (bot :: rest).Pairwise (· < ·)) :
    (∃ band ∈ bandsFrom d top bot rest, band.1 = i) ↔
      i = top ∨ (i ∈ rest ∧ ∀ j ∈ bot :: rest, j < i → j + d ≤ i) := by
  induction rest generalizing top bot with
  | nil => simp [bandsFrom, eq_comm]
  | cons r rest ih =>
    obtain ⟨hbot, hrest⟩ := List.pairwise_cons.mp hsorted
    have hr : bot < r := hbot r List.mem_cons_self
    have habove : ∀ j ∈ rest, r < j := (List.pairwise_cons.mp hrest).1
    rw [bandsFrom]
    split
    case isTrue hmerge =>
      rw [ih hrest]
      refine or_congr_right ⟨fun ⟨hi, hgap⟩ => ?_, fun ⟨hi, hgap⟩ => ?_⟩
      · have := hgap r List.mem_cons_self (habove i hi)
        exact ⟨List.mem_cons_of_mem r hi, List.forall_mem_cons.mpr ⟨fun _ => by omega, hgap⟩⟩
      · obtain ⟨hgapBot, hgap⟩ := List.forall_mem_cons.mp hgap
        refine ⟨(List.mem_cons.mp hi).resolve_left fun heq => ?_, hgap⟩
        have := hgapBot (heq ▸ hr)
        omega
    case isFalse hapart =>
      rw [List.exists_mem_cons_iff, ih hrest, ← startsBand_cons hrest, eq_comm]
      refine or_congr_right (and_congr_right fun hi => ?_)
      have hle : r ≤ i := (List.mem_cons.mp hi).elim Eq.ge fun hi => (habove i hi).le
      exact ⟨fun hgap => List.forall_mem_cons.mpr ⟨fun _ => by omega, hgap⟩, fun hgap => (List.forall_mem_cons.mp hgap).2⟩

/-- The bands of a set start at its starts. -/
theorem exists_bands_fst_iff {d i : Nat} {indices : List Nat} (hsorted : indices.Pairwise (· < ·)) :
    (∃ band ∈ bands d indices, band.1 = i) ↔ StartsBand d indices i := by
  cases indices with
  | nil => simp [bands, StartsBand]
  | cons first rest => rw [bands, exists_bandsFrom_fst_iff hsorted, startsBand_cons hsorted]

/-- A band has no start inside. -/
theorem StartsBand.eq_of_mem_band {d i : Nat} {indices : List Nat} (hstart : StartsBand d indices i)
    (hsorted : indices.Pairwise (· < ·)) {band : Nat × Nat} (hband : band ∈ bands d indices) (hfirst : band.1 ≤ i)
    (hlast : i ≤ band.2) : i = band.1 := by
  obtain ⟨band', hband', rfl⟩ := (exists_bands_fst_iff hsorted).mpr hstart
  obtain ⟨_, _, hle⟩ := mem_bands hsorted hband'
  rcases bands_eq_or_apart hsorted hband hband' with heq | hapart | hapart
  · rw [heq]
  · omega
  · omega

/-- A smaller merge distance refines the bands: each index of a band lies in a finer band within it. -/
theorem exists_finer_band {d d' i : Nat} (hd : d ≤ d') {indices : List Nat} (hsorted : indices.Pairwise (· < ·))
    {band' : Nat × Nat} (hband' : band' ∈ bands d' indices) (hi : i ∈ indices) (hfirst : band'.1 ≤ i)
    (hlast : i ≤ band'.2) :
    ∃ band ∈ bands d indices, band'.1 ≤ band.1 ∧ band.1 ≤ i ∧ i ≤ band.2 ∧ band.2 ≤ band'.2 := by
  have hcoarse : ∀ b ∈ bands d' indices, StartsBand d indices b.1 := fun b hb =>
    ((exists_bands_fst_iff hsorted).mp ⟨b, hb, rfl⟩).mono hd (List.Subset.refl _) (mem_bands hsorted hb).1
  obtain ⟨band, hband, hlow, hhigh⟩ := exists_mem_bands (d := d) hsorted hi
  refine ⟨band, hband, ?above, hlow, hhigh, ?below⟩
  case above =>
    by_contra hlt
    have := (hcoarse band' hband').eq_of_mem_band hsorted hband (by omega) (by omega)
    omega
  case below =>
    by_contra hlt
    obtain ⟨_, hend, _⟩ := mem_bands hsorted hband
    obtain ⟨next, hnext, hstart, hstop⟩ := exists_mem_bands (d := d') hsorted hend
    have hafter : band'.2 < next.1 := by
      rcases bands_eq_or_apart hsorted hband' hnext with rfl | hapart | hapart
      · omega
      · exact hapart
      · omega
    have := (hcoarse next hnext).eq_of_mem_band hsorted hband (by omega) hstart
    omega

/-! ### Rectangles -/

/-- The two rectangles share no pixel. -/
def Rect.Disjoint (q q' : Rect) : Prop := ∀ x y : Nat, ¬(q.contains x y = true ∧ q'.contains x y = true)

theorem Rect.contains_iff {q : Rect} {x y : Nat} :
    q.contains x y = true ↔ q.x1 ≤ x ∧ x ≤ q.x2 ∧ q.y1 ≤ y ∧ y ≤ q.y2 := by
  simp [Rect.contains, and_assoc]

theorem Rect.disjoint_symm : Std.Symm Rect.Disjoint := ⟨fun _ _ hdisjoint x y hboth => hdisjoint x y hboth.symm⟩

theorem mem_rects {w h d : Nat} {m : Raster Bool} {q : Rect} :
    q ∈ rects w h d m ↔ ∃ rb ∈ bands d (dirtyRows w h m), ∃ cb ∈ bands d (dirtyCols w m rb.1 rb.2),
      (⟨cb.1, rb.1, cb.2, rb.2⟩ : Rect) = q := by
  simp [rects]

/-- Rectangles of one row band lie in different column bands, others in different row bands. -/
theorem rects_pairwise_disjoint (w h d : Nat) (m : Raster Bool) : (rects w h d m).Pairwise Rect.Disjoint := by
  refine List.pairwise_flatMap.mpr ⟨fun rb _ => List.pairwise_map.mpr ?_, ?_⟩
  · refine (bands_pairwise d (dirtyCols_sorted w m rb.1 rb.2)).imp fun hapart x y hboth => ?_
    obtain ⟨⟨_, hx, _⟩, hx', _⟩ := hboth.imp Rect.contains_iff.mp Rect.contains_iff.mp
    exact absurd (hx'.trans hx) hapart.not_ge
  · refine (bands_pairwise d (dirtyRows_sorted w h m)).imp fun hapart q hq q' hq' x y hboth => ?_
    obtain ⟨cb, _, rfl⟩ := List.mem_map.mp hq
    obtain ⟨cb', _, rfl⟩ := List.mem_map.mp hq'
    obtain ⟨⟨_, _, _, hy⟩, _, _, hy', _⟩ := hboth.imp Rect.contains_iff.mp Rect.contains_iff.mp
    exact absurd (hy'.trans hy) hapart.not_ge

/-- Settles O43, from the rectangles' row and column bands. -/
theorem rectsCoverEveryDirtyPixel : Obligations.RectsCoverEveryDirtyPixel := fun w h d m =>
  ⟨fun _ => rects_onPanel, fun _ _ => covered_rects d, rects_pairwise_disjoint w h d m⟩

theorem rects_eq_of_contains {w h d x y : Nat} {m : Raster Bool} {q q' : Rect} (hq : q ∈ rects w h d m)
    (hq' : q' ∈ rects w h d m) (hin : q.contains x y = true) (hin' : q'.contains x y = true) : q = q' := by
  have hsymm := Rect.disjoint_symm
  by_contra hne
  exact (rects_pairwise_disjoint w h d m).forall hq hq' hne x y ⟨hin, hin'⟩

theorem rects_nodup (w h d : Nat) (m : Raster Bool) : (rects w h d m).Nodup := by
  refine (rects_pairwise_disjoint w h d m).imp_of_mem fun {q q'} hq _ hdisjoint heq => ?_
  obtain ⟨hx, _, hy, _⟩ := Rect.onPanel_iff.mp (rects_onPanel hq)
  have hcorner := Rect.contains_iff.mpr ⟨le_rfl, hx, le_rfl, hy⟩
  exact hdisjoint q.x1 q.y1 ⟨hcorner, heq ▸ hcorner⟩

/-- Each rectangle has in it the first corner of a rectangle for a smaller merge distance: its first column is dirty in some row,
and starts a column band of the finer row band of that row. -/
theorem exists_rects_corner {w h d d' : Nat} {m : Raster Bool} (hd : d ≤ d') {q' : Rect} (hq' : q' ∈ rects w h d' m) :
    ∃ q ∈ rects w h d m, q'.contains q.x1 q.y1 = true := by
  obtain ⟨rb', hrb', cb', hcb', rfl⟩ := mem_rects.mp hq'
  obtain ⟨_, hbot', hrows'⟩ := mem_bands (dirtyRows_sorted w h m) hrb'
  obtain ⟨hleft', _, hcols'⟩ := mem_bands (dirtyCols_sorted w m rb'.1 rb'.2) hcb'
  obtain ⟨hx, y, htop, hbot, hm⟩ := (mem_dirtyCols hrows').mp hleft'
  have hy : y < h := hbot.trans_lt (mem_dirtyRows.mp hbot').1
  obtain ⟨rb, hrb, hfirst, hlow, hhigh, hlast⟩ :=
    exists_finer_band hd (dirtyRows_sorted w h m) hrb' (mem_dirtyRows.mpr ⟨hy, _, hx, hm⟩) htop hbot
  have hrows : rb.1 ≤ rb.2 := hlow.trans hhigh
  have hsub : dirtyCols w m rb.1 rb.2 ⊆ dirtyCols w m rb'.1 rb'.2 := fun x hmem => by
    obtain ⟨hx, y, htop, hbot, hm⟩ := (mem_dirtyCols hrows).mp hmem
    exact (mem_dirtyCols hrows').mpr ⟨hx, y, hfirst.trans htop, hbot.trans hlast, hm⟩
  have hstart := (exists_bands_fst_iff (dirtyCols_sorted w m rb'.1 rb'.2)).mp ⟨cb', hcb', rfl⟩
  obtain ⟨cb, hcb, heq⟩ := (exists_bands_fst_iff (dirtyCols_sorted w m rb.1 rb.2)).mpr
    (hstart.mono hd hsub ((mem_dirtyCols hrows).mpr ⟨hx, y, hlow, hhigh, hm⟩))
  exact ⟨_, mem_rects.mpr ⟨rb, hrb, cb, hcb, rfl⟩,
    Rect.contains_iff.mpr ⟨heq.ge, heq.le.trans hcols', hfirst, hrows.trans hlast⟩⟩

/-- Settles O44: each coarse rectangle has the corner of a fine one in it, and no corner lies in two coarse ones. -/
theorem mergingIsMonotonic : Obligations.MergingIsMonotonic := by
  intro w h d d' m hd
  calc (rects w h d' m).length = (rects w h d' m).toFinset.card := (List.toFinset_card_of_nodup (rects_nodup w h d' m)).symm
    _ ≤ (rects w h d m).toFinset.card := by
      refine Finset.card_le_card_of_forall_subsingleton (fun q' q => q'.contains q.x1 q.y1 = true) (fun q' hq' => ?_)
        fun q _ q₁ h₁ q₂ h₂ => ?_
      · obtain ⟨q, hq, hin⟩ := exists_rects_corner hd (List.mem_toFinset.mp hq')
        exact ⟨q, List.mem_toFinset.mpr hq, hin⟩
      · exact rects_eq_of_contains (List.mem_toFinset.mp h₁.1) (List.mem_toFinset.mp h₂.1) h₁.2 h₂.2
    _ ≤ (rects w h d m).length := List.toFinset_card_le _

/-! ### Chunks -/

/-- Taking `c + 1` of some bytes, or all of fewer, leaves one piece less. -/
theorem ceilDiv_drop (c : Nat) {n : Nat} (hn : 0 < n) : (n - (c + 1) + c) / (c + 1) + 1 = (n + c) / (c + 1) := by
  have hquotient : (n + c) / (c + 1) = (n - 1) / (c + 1) + 1 := by
    rw [← Nat.add_div_right _ c.succ_pos]
    congr 1
    omega
  rw [hquotient]
  congr 1
  by_cases hlast : n ≤ c + 1
  · rw [Nat.div_eq_of_lt (by omega), Nat.div_eq_of_lt (by omega)]
  · congr 1
    omega

/-- With fuel for every byte the pieces joined give the bytes, and they are the quotient rounded up, none above the piece size. -/
theorem piecesOf_spec (c : Nat) {fuel : Nat} {bytes : List Byte} (hfuel : bytes.length ≤ fuel) :
    (piecesOf c fuel bytes).flatten = bytes ∧ (piecesOf c fuel bytes).length = (bytes.length + c) / (c + 1) ∧
      ∀ piece ∈ piecesOf c fuel bytes, piece.length ≤ c + 1 := by
  induction fuel generalizing bytes with
  | zero =>
    obtain rfl := List.length_eq_zero_iff.mp (Nat.le_zero.mp hfuel)
    simp [piecesOf, Nat.div_eq_of_lt]
  | succ fuel ih =>
    cases bytes with
    | nil => simp [piecesOf, Nat.div_eq_of_lt]
    | cons b rest =>
      rw [List.length_cons] at hfuel
      obtain ⟨hjoin, hcount, hsize⟩ := ih (bytes := (b :: rest).drop (c + 1)) (by simp; omega)
      refine ⟨?joined, ?count, List.forall_mem_cons.mpr ⟨List.length_take_le _ _, hsize⟩⟩
      case joined => rw [piecesOf, List.flatten_cons, hjoin, List.take_append_drop]
      case count =>
        rw [piecesOf, List.length_cons, hcount, List.length_drop]
        exact ceilDiv_drop c (Nat.succ_pos rest.length)

/-- Settles O45, by the chunk size. -/
theorem chunkingFidelity : Obligations.ChunkingFidelity := by
  intro c bytes
  cases c with
  | zero => simp [chunks]
  | succ c =>
    obtain ⟨hjoin, hcount, hsize⟩ := piecesOf_spec c (le_refl bytes.length)
    exact ⟨hjoin, nofun, fun _ => ⟨hcount, hsize⟩⟩

/-- Settles O51: the writes are the chunks of the data. -/
theorem commandAndDataPhases : Obligations.CommandAndDataPhases := fun o command =>
  ⟨_, _, rfl, chunkingFidelity o.chunkSize command.data⟩

/-! ### Payload -/

theorem length_flatMap_of_length {α β : Type} {l : List α} {f : α → List β} {n : Nat} (hf : ∀ a ∈ l, (f a).length = n) :
    (l.flatMap f).length = l.length * n := by
  rw [List.length_flatMap, List.sum_eq_card_nsmul _ n (List.forall_mem_map.mpr hf), List.length_map, smul_eq_mul]

/-- In a join of lists of one length, an element's list and its place there. -/
theorem getElem?_flatMap_of_length {α β : Type} {l : List α} {f : α → List β} {n j : Nat}
    (hf : ∀ a ∈ l, (f a).length = n) (hj : j < n) (i : Nat) : (l.flatMap f)[n * i + j]? = l[i]?.bind fun a => (f a)[j]? := by
  induction l generalizing i with
  | nil => simp
  | cons a rest ih =>
    obtain ⟨ha, hrest⟩ := List.forall_mem_cons.mp hf
    rw [List.flatMap_cons]
    cases i with
    | zero => rw [Nat.mul_zero, Nat.zero_add, List.getElem?_append_left (ha ▸ hj)]; rfl
    | succ i =>
      rw [List.getElem?_append_right (by rw [ha, Nat.mul_succ]; omega), List.getElem?_cons_succ, ← ih hrest]
      congr 1
      rw [ha, Nat.mul_succ]
      omega

/-- The pixels of a rectangle in payload order, columns outermost (45_downstream_contract.md R114). -/
def Rect.places (q : Rect) : List (Nat × Nat) :=
  List.range' q.x1 (q.x2 + 1 - q.x1) ×ˢ List.range' q.y1 (q.y2 + 1 - q.y1)

theorem pixelReads_eq_map_places (q : Rect) :
    pixelReads q = q.places.map fun p => .cfr (coord p.1) (coord p.2) := by
  simp [pixelReads, Rect.places, SProd.sprod, List.product, List.map_flatMap, Function.comp_def]

theorem payload_eq_flatMap_places (cf : Raster Packed) (q : Rect) :
    payload cf q = q.places.flatMap fun p => ((cf.get? p.1 p.2).map bigEndian).getD [] := by
  simp [payload, Rect.places, SProd.sprod, List.product, List.flatMap_assoc, List.flatMap_map]

section Places

variable {w h : Nat} {q : Rect} (hq : q.onPanel w h = true)

include hq

theorem Rect.length_places : q.places.length = (q.x2 - q.x1 + 1) * (q.y2 - q.y1 + 1) := by
  obtain ⟨hx, _, hy, _⟩ := Rect.onPanel_iff.mp hq
  rw [Rect.places, List.length_product, List.length_range', List.length_range', Nat.sub_add_comm hx, Nat.sub_add_comm hy]

/-- The `k`th pixel: column `k / n`, row `k % n` of the rectangle with `n` rows. -/
theorem Rect.places_getElem? {k : Nat} (hk : k < (q.x2 - q.x1 + 1) * (q.y2 - q.y1 + 1)) :
    q.places[k]? = some (q.x1 + k / (q.y2 - q.y1 + 1), q.y1 + k % (q.y2 - q.y1 + 1)) := by
  obtain ⟨hx, _, hy, _⟩ := Rect.onPanel_iff.mp hq
  have hrow : k % (q.y2 - q.y1 + 1) < q.y2 - q.y1 + 1 := Nat.mod_lt _ (Nat.succ_pos _)
  have hcol : k / (q.y2 - q.y1 + 1) < q.x2 - q.x1 + 1 := Nat.div_lt_of_lt_mul (by rwa [Nat.mul_comm])
  conv_lhs => rw [← Nat.div_add_mod k (q.y2 - q.y1 + 1)]
  rw [Rect.places, Nat.sub_add_comm hx, Nat.sub_add_comm hy]
  refine (getElem?_flatMap_of_length (fun _ _ => ?_) hrow _).trans ?_
  · rw [List.length_map, List.length_range']
  · simp [hrow, hcol]

theorem Rect.onPanel_of_mem_places {p : Nat × Nat} (hp : p ∈ q.places) : p.1 < w ∧ p.2 < h := by
  obtain ⟨_, hx2, _, hy2⟩ := Rect.onPanel_iff.mp hq
  obtain ⟨hx, hy⟩ := List.mem_product.mp hp
  exact ⟨lt_of_mem_span hx2 hx, lt_of_mem_span hy2 hy⟩

theorem length_pixelReads : (pixelReads q).length = (q.x2 - q.x1 + 1) * (q.y2 - q.y1 + 1) := by
  rw [pixelReads_eq_map_places, List.length_map, Rect.length_places hq]

end Places

/-- Settles O46: every place of the rectangle gives the two bytes of its pixel. -/
theorem payloadIsColumnMajorBigEndian : Obligations.PayloadIsColumnMajorBigEndian := by
  intro w h cf q hwf hq
  have hbytes : ∀ p ∈ q.places, (((cf.get? p.1 p.2).map bigEndian).getD []).length = 2 := fun p hp => by
    obtain ⟨hx, hy⟩ := Rect.onPanel_of_mem_places hq hp
    obtain ⟨v, hv⟩ := Raster.exists_get? hwf hx hy
    rw [hv]
    rfl
  rw [payload_eq_flatMap_places]
  refine ⟨?length, fun k hk => ?bytes⟩
  case length => rw [length_flatMap_of_length hbytes, Rect.length_places hq, Nat.mul_comm, Nat.mul_assoc]
  case bytes =>
    have hplace := Rect.places_getElem? hq hk
    obtain ⟨hx, hy⟩ := Rect.onPanel_of_mem_places hq (List.mem_of_getElem? hplace)
    obtain ⟨v, hv⟩ := Raster.exists_get? hwf hx hy
    have hbyte : ∀ j < 2, (q.places.flatMap fun p => ((cf.get? p.1 p.2).map bigEndian).getD [])[2 * k + j]? = (bigEndian v)[j]? :=
      fun j hj => by
        rw [getElem?_flatMap_of_length hbytes hj, hplace, Option.bind_some, hv]
        rfl
    exact ⟨v, hv, hbyte 0 (by decide), hbyte 1 (by decide)⟩

/-! ### What the host reads -/

/-- The pixels of a rectangle are read by `CFR` (45_downstream_contract.md R104). -/
theorem eq_cfr_of_mem_pixelReads {q : Rect} {op : Operation} (hop : op ∈ (pixelReads q).map .port) :
    ∃ x y, op = .port (.cfr x y) := by
  rw [pixelReads_eq_map_places, List.map_map] at hop
  obtain ⟨p, _, rfl⟩ := List.mem_map.mp hop
  exact ⟨_, _, rfl⟩

/-- Settles O53: one `CFR` for each place of the rectangle. -/
theorem hostReadsThePixels : Obligations.HostReadsThePixels := by
  intro q h cf hs hcf hq
  obtain ⟨r, hr⟩ := readPayload_done hs hcf hq
  exact ⟨r, _, hr, by rw [List.length_map, length_pixelReads hq], fun _ => eq_cfr_of_mem_pixelReads⟩

/-- The rectangle list is read by `STR` and then by `DMR` only, not at all if FULL is 1 or ANY is 0 (45_downstream_contract.md R104
to R106). -/
theorem rectReads_eq (u : State) : ∃ reads, rectReads u = .port .str :: reads ∧
    (∀ op ∈ reads, ∃ x y, op = .port (.dmr x y)) ∧ (u.full = true ∨ u.any = false → reads = []) := by
  refine ⟨_, rfl, fun op hop => ?dmr, fun hnone => if_neg ?skipped⟩
  case dmr =>
    split at hop
    · obtain ⟨p, hp, rfl⟩ := List.mem_map.mp hop
      obtain ⟨row, hrow, hp⟩ := List.mem_flatten.mp hp
      obtain ⟨y, _, rfl⟩ := List.mem_map.mp hrow
      obtain ⟨x, _, rfl⟩ := List.mem_map.mp hp
      exact ⟨_, _, rfl⟩
    · cases hop
  case skipped =>
    rintro ⟨hfull, hany⟩
    simp [hfull, hany] at hnone

/-- Settles O52, from what `CONVERT; COMPARE` leaves. -/
theorem hostReadsTheRectangles : Obligations.HostReadsTheRectangles := by
  intro d h u hs hu
  obtain ⟨u', hu', hc⟩ := convertCompare_compared hs
  cases hu'.symm.trans hu
  obtain ⟨r, hr⟩ := readRects_done d (h := { h with block := u }) hc.shaped fun _ => hc.dmv
  obtain ⟨reads, heq, hdmr, hskipped⟩ := rectReads_eq u
  exact ⟨r, reads, heq ▸ hr, hdmr, hskipped⟩

/-! ### How an update ends -/

/-- A transport that fails within the calls of the rectangles ends the sending there (45_downstream_contract.md R121). -/
theorem sendRects_fails (o : HostOptions) (hs : h.block.Shaped) {cf : Raster Packed} (hcf : h.block.cf = some cf)
    {rs : List Rect} (hrs : ∀ q ∈ rs, q.onPanel h.block.w h.block.h = true) {k : Nat} (hf : h.failAfter = some k)
    (hk : k < (updateCalls o cf rs).length) :
    ∃ r reads, sendRects o rs h =
        .transportError ((h.afterReads r reads).afterCalls ((updateCalls o cf rs).take k) (some 0)) ∧
      ∀ op ∈ reads, ∃ x y, op = .port (.cfr x y) := by
  induction rs generalizing h k with
  | nil => exact absurd hk (Nat.not_lt_zero k)
  | cons q rest ih =>
    obtain ⟨hq, hrest⟩ := List.forall_mem_cons.mp hrs
    have hsplit : updateCalls o cf (q :: rest) = rectCalls o cf q ++ updateCalls o cf rest := rfl
    rw [hsplit] at hk ⊢
    obtain ⟨r₁, hsend⟩ := sendRect_eq_callAll o hs hcf hq
    rw [sendRects, hsend, List.take_append]
    by_cases hhere : k < (rectCalls o cf q).length
    · rw [callAll_fails (h := h.afterReads _ _) hf hhere, Nat.sub_eq_zero_of_le hhere.le, List.take_zero, List.append_nil]
      exact ⟨r₁, _, rfl, fun _ => eq_cfr_of_mem_pixelReads⟩
    · have hlater := Nat.le_of_not_lt hhere
      rw [List.length_append] at hk
      rw [callAll_enough (h := h.afterReads _ _) hf hlater, bind_done, List.take_of_length_le hlater]
      obtain ⟨r, reads, hsends, hcfr⟩ := ih (h := (h.afterReads r₁ ((pixelReads q).map .port)).afterCalls (rectCalls o cf q)
        (some (k - (rectCalls o cf q).length))) (afterReads_shaped r₁ ((pixelReads q).map .port) hs) hcf hrest rfl (by omega)
      refine ⟨r, (pixelReads q).map .port ++ reads, hsends.trans (by simp [afterCalls_afterReads]), fun op hop => ?_⟩
      exact (List.mem_append.mp hop).elim eq_cfr_of_mem_pixelReads (hcfr op)

/-- If the transport fails within the calls of the rectangle list, the update ends there, without `COMMIT`
(45_downstream_contract.md R121, 42_cache_control.md R91). -/
theorem hostUpdate_fails (o : HostOptions) (hu : convertCompare h.block = .next u) (hc : Compared h.block u) {k : Nat}
    (hf : h.failAfter = some k)
    (hk : k < (updateCalls o (convertFrame h.block.pb) (rectList o.mergeDistance u)).length) :
    ∃ r reads, hostUpdate o h = .transportError (((h.afterCompare u).afterReads r (rectReads u ++ reads)).afterCalls
        ((updateCalls o (convertFrame h.block.pb) (rectList o.mergeDistance u)).take k) (some 0)) ∧
      ∀ op ∈ reads, ∃ x y, op = .port (.cfr x y) := by
  obtain ⟨r₁, hrects⟩ := readRects_done o.mergeDistance (h := h.afterCompare u) hc.shaped fun _ => hc.dmv
  obtain ⟨r, reads, hsends, hcfr⟩ := sendRects_fails o (h := (h.afterCompare u).afterReads r₁ (rectReads u))
    (afterReads_shaped _ _ hc.shaped) hc.cf (fun _ => rectList_onPanel hc.shaped) hf hk
  refine ⟨r, reads, ?_, hcfr⟩
  rw [hostUpdate, issue_convertCompare hu, hrects, bind_done, afterCompare_block, hsends, bind_transportError,
    afterReads_afterReads]

/-- Settles O54, by whether the transport carries out the calls of the rectangle list. -/
theorem updateFollowsTheProcedure : Obligations.UpdateFollowsTheProcedure := by
  intro o h hs
  obtain ⟨u, hu, hc⟩ := convertCompare_compared hs
  obtain ⟨dmrs, heq, hdmr, _⟩ := rectReads_eq u
  refine ⟨u, _, _, hu, hc.cf, rfl, fun hcarries => ?success, fun k hf hk => ?failure⟩
  case success =>
    obtain ⟨h', hdone, hfinish, hbus, hissued⟩ := hostUpdate_done o hu hc hcarries
    refine ⟨h', dmrs ++ (rectList o.mergeDistance u).flatMap fun q => (pixelReads q).map .port, hdone, hfinish, hbus,
      by simp [hissued, updateOperations, heq], fun op hop => ?_⟩
    rcases List.mem_append.mp hop with hop | hop
    · exact (hdmr op hop).imp fun _ => Exists.imp fun _ => Or.inl
    · obtain ⟨q, _, hop⟩ := List.mem_flatMap.mp hop
      exact (eq_cfr_of_mem_pixelReads hop).imp fun _ => Exists.imp fun _ => Or.inr
  case failure =>
    obtain ⟨r, cfrs, hfails, hcfr⟩ := hostUpdate_fails o hu hc hf hk
    refine ⟨_, dmrs ++ cfrs, hfails, rfl, hc.pf, rfl, by simp [heq], fun op hop => ?_⟩
    rcases List.mem_append.mp hop with hop | hop
    · exact (hdmr op hop).imp fun _ => Exists.imp fun _ => Or.inl
    · exact (hcfr op hop).imp fun _ => Exists.imp fun _ => Or.inr

/-! ### A second update -/

/-- Without a dirty pixel there is no rectangle (45_downstream_contract.md R106). -/
theorem rectList_clean (d : Nat) (hfull : s.full = false) (hany : s.any = false) : rectList d s = [] := by
  simp [rectList, hfull, hany]

/-- Settles O49: the second comparison is of a buffer with its own conversion. -/
theorem secondUpdateSendsNothing : Obligations.SecondUpdateSendsNothing := by
  intro s d hs
  obtain ⟨t, ht, hshaped, _, _, hpb, hpf⟩ := update_true_cached hs
  obtain ⟨u, hu, hany, hfull, _⟩ := convertCompare_unchanged hshaped (hpb ▸ hpf)
  exact ⟨t, u, ht, hu, rectList_clean d hfull hany⟩

/-- An update that ended with success left the block as a delivered update does. -/
theorem update_true_of_hostUpdate {o : HostOptions} (hs : h.block.Shaped) (hdone : hostUpdate o h = .done () h') :
    update true h.block = .next h'.block := by
  obtain ⟨u, hu, hc⟩ := convertCompare_compared hs
  have hcarries : h.Carries (updateCalls o (convertFrame h.block.pb) (rectList o.mergeDistance u)).length := fun k hf => by
    by_contra hk
    obtain ⟨_, _, hfails, _⟩ := hostUpdate_fails o hu hc hf (Nat.lt_of_not_le hk)
    cases hfails.symm.trans hdone
  obtain ⟨h₁, hdone₁, hfinish, _⟩ := hostUpdate_done o hu hc hcarries
  cases hdone₁.symm.trans hdone
  rw [update, hu, andThen_next, hfinish]

/-- While the cache is the conversion of PB an update ends with success and makes no transport call. -/
theorem hostUpdate_unchanged (o : HostOptions) (hs : h.block.Shaped) (hpf : h.block.pf = some (convertFrame h.block.pb)) :
    ∃ h', hostUpdate o h = .done () h' ∧ h'.bus = h.bus ∧ h'.block.pf = h.block.pf := by
  obtain ⟨u, hu, hc⟩ := convertCompare_compared hs
  obtain ⟨u', hu', hany, hfull, _⟩ := convertCompare_unchanged hs hpf
  cases hu'.symm.trans hu
  have hcalls : updateCalls o (convertFrame h.block.pb) (rectList o.mergeDistance u) = [] := by
    rw [rectList_clean _ hfull hany]
    rfl
  obtain ⟨h', hdone, hfinish, hbus, _⟩ := hostUpdate_done o hu hc (hcalls ▸ fun k _ => Nat.zero_le k)
  rw [finish_true hc.cf] at hfinish
  injection hfinish with hblock
  exact ⟨h', hdone, by rw [hbus, hcalls, List.append_nil], by rw [← hblock, hpf]; rfl⟩

/-- Settles O56: the first update made the conversion of PB the cache. -/
theorem secondUpdateMakesNoBusTraffic : Obligations.SecondUpdateMakesNoBusTraffic := by
  intro o o' h h' hs hdone
  obtain ⟨t, ht, hshaped, _, _, hpb, hpf⟩ := update_true_cached hs
  cases ht.symm.trans (update_true_of_hostUpdate hs hdone)
  exact hostUpdate_unchanged o' hshaped (hpb ▸ hpf)

end Sys2Proof.Machine
end

section
/-! SUPPORT. Proofs of the family 60_exceptions.md: the illegal words, the table of the causes, what a refusal leaves, that no operation
but `STR` reads ERR, and that ERR is sticky. -/

namespace Sys2Proof.Machine

variable {α : Type} {s t : State} {op : Operation} {k : Cause} {w : Word}

/-! ### Illegal words -/

/-- A legal word has opcode 1 to 4 and no operand, or opcode 5 (30_encoding.md R59, R60). -/
theorem opcode_of_decode {i : Instr} (hd : decode w = .ok i) :
    (1 ≤ w.toNat / 2 ^ 24 ∧ w.toNat / 2 ^ 24 ≤ 4 ∧ w.toNat % 2 ^ 24 = 0) ∨ w.toNat / 2 ^ 24 = 5 := by
  rw [← opField_toNat, ← immField_toNat]
  rcases decode_ok w hd with ⟨hop, himm, _⟩ | ⟨hop, himm, _⟩ | ⟨hop, himm, _⟩ | ⟨hop, himm, _⟩ | ⟨hop, _⟩ <;>
    simp [*]

/-- Settles O4: no legal word is in one of the three classes. -/
theorem illegalWordIsRefused : Obligations.IllegalWordIsRefused := by
  intro s w rest hp hclass
  cases hd : decode w with
  | ok i =>
    have hlegal := opcode_of_decode hd
    omega
  | error e =>
    rw [step_accept hp, accept, execOperation_illegal w hd]
    exact raise_refusedWith .illegal _

/-! ### The table of the causes -/

theorem readOptional_empty {store : Option (Raster α)} {x y : Coord} (data : α → Word) (ho : s.outside x y = false)
    (hnone : store = none) : readOptional store x y data s = raise .invalid s := by
  rw [hnone, readOptional_noValue data ho]

/-- An operation is refused with every cause whose condition holds; so no two of them hold together (60_exceptions.md R132). -/
theorem execOperation_of_raises (hk : raises op s k) : execOperation op s = raise k s := by
  rcases hk with ⟨rfl, w, e, rfl, hd⟩ | ⟨rfl, hcf, hop⟩ | ⟨rfl, x, y, ho, hop⟩ | ⟨rfl, h, w, n, data, rfl, hs⟩ | ⟨rfl, x, y, ho, hop⟩
  · exact execOperation_illegal w hd
  · rcases hop with ⟨w, rfl, hd⟩ | ⟨w, rfl, hd⟩
    · exact (execOperation_command w hd).trans (execCompare_noFrame hcf)
    · exact (execOperation_command w hd).trans (execCommit_noFrame hcf)
  · rcases hop with ⟨r, g, b, rfl⟩ | rfl | rfl | rfl | rfl
    · exact execPbw_outside r g b ho
    · exact execPbr_outside ho
    · exact readOptional_outside packedData ho
    · exact readOptional_outside packedData ho
    · exact readOptional_outside bitData ho
  · exact execPbl_noShape data hs
  · rcases hop with ⟨rfl, hnone⟩ | ⟨rfl, hnone⟩ | ⟨rfl, hnone⟩
    · exact readOptional_empty packedData ho hnone
    · exact readOptional_empty packedData ho hnone
    · exact readOptional_empty bitData ho hnone

/-- An operation answers with a cause exactly when it raises it (60_exceptions.md R125). -/
theorem response_err_iff (ht : execOperation op s = .next t) : t.response = some (.err k) ↔ raises op s k := by
  constructor
  · intro hr
    cases execOperation_effect ht with
    | refused k' hk =>
      cases hr
      exact hk
    | answered | converted | comparedAbsent | comparedPresent | committed | invalidated | stored => cases hr
  · intro hk
    cases (execOperation_of_raises hk).symm.trans ht
    rfl

theorem isCommand_iff {i : Instr} : isCommand op i ↔ op = .command (encode i) := by
  constructor
  · rintro ⟨w, rfl, hd⟩
    rw [encode_of_decode hd]
  · rintro rfl
    exact ⟨_, rfl, decode_encode i⟩

theorem decode_error_iff : (∃ e, decode w = .error e) ↔ ∀ i, decode w ≠ .ok i := by
  cases decode w <;> simp

theorem raises_illegal_iff : raises op s .illegal ↔ ∃ w, op = .command w ∧ ∀ i, decode w ≠ .ok i := by
  simp [raises, ← decode_error_iff]

theorem raises_seq_iff :
    raises op s .seq ↔ s.cfv = false ∧ (op = .command (encode .compare) ∨ op = .command (encode .commit)) := by
  simp [raises, isCommand_iff, State.cfv]

theorem raises_range_iff : raises op s .range ↔ ∃ x y : Coord, (s.w ≤ x.toNat ∨ s.h ≤ y.toNat) ∧
    ((∃ r g b, op = .port (.pbw x y r g b)) ∨ op = .port (.pbr x y) ∨ op = .port (.cfr x y) ∨ op = .port (.pfr x y) ∨
      op = .port (.dmr x y)) := by
  simp [raises, outside_iff]

theorem raises_shape_iff : raises op s .shape ↔
    ∃ h w n data, op = .port (.pbl h w n data) ∧ (h.toNat ≠ s.h ∨ w.toNat ≠ s.w ∨ n.toNat ≠ 3) := by
  simp [raises, not_and_or, -not_and]

theorem raises_invalid_iff : raises op s .invalid ↔ ∃ x y : Coord, x.toNat < s.w ∧ y.toNat < s.h ∧
    ((op = .port (.cfr x y) ∧ s.cfv = false) ∨ (op = .port (.pfr x y) ∧ s.pfv = false) ∨
      (op = .port (.dmr x y) ∧ s.dmv = false)) := by
  simp [raises, inside_iff, and_assoc, State.cfv, State.pfv, State.dmv]

/-- Settles O30, cause by cause. -/
theorem causesFollowTheTable : Obligations.CausesFollowTheTable := by
  refine ⟨⟨rfl, rfl, rfl, rfl, rfl, fun s herr => by simp [State.errCode, herr]⟩, fun op s t k ht => ?_⟩
  rw [response_err_iff ht]
  cases k with
  | illegal => exact raises_illegal_iff
  | seq => exact raises_seq_iff
  | range => exact raises_range_iff
  | shape => exact raises_shape_iff
  | invalid => exact raises_invalid_iff

/-! ### No operation but `STR` reads ERR -/

/-- ERR changed beforehand, and nothing else (60_exceptions.md R133). -/
def State.setErr (s : State) (e : Option Cause) : State := { s with err := e }

/-- Where the first ends in a next state the second ends in the same one but for ERR. -/
def SameUpToErr (o o' : Result) : Prop := ∀ t, o = .next t → ∃ e, o' = .next (t.setErr e)

theorem SameUpToErr.of_eq {a a' b b' : Result} (hb : SameUpToErr b b') (ha : a = b) (ha' : a' = b') : SameUpToErr a a' := by
  rw [ha, ha']
  exact hb

theorem SameUpToErr.ite {p : Prop} [Decidable p] {a a' b b' : Result} (ha : SameUpToErr a a') (hb : SameUpToErr b b') :
    SameUpToErr (if p then a else b) (if p then a' else b') := by
  split
  · exact ha
  · exact hb

theorem complete_sameUpToErr (s : State) (e : Option Cause) : SameUpToErr (complete s) (complete (s.setErr e)) := by
  rintro _ ⟨⟩
  exact ⟨e, rfl⟩

theorem answer_sameUpToErr (v : Word) (s : State) (e : Option Cause) : SameUpToErr (answer v s) (answer v (s.setErr e)) := by
  rintro _ ⟨⟩
  exact ⟨e, rfl⟩

theorem raise_sameUpToErr (k : Cause) (s : State) (e : Option Cause) : SameUpToErr (raise k s) (raise k (s.setErr e)) := by
  rintro _ ⟨⟩
  exact ⟨some (e.getD k), by rw [raise_eq, recordError_eq, recordError_eq]; rfl⟩

theorem readElement_sameUpToErr (store : Raster α) (x y : Coord) (data : α → Word) (s : State) (e : Option Cause) :
    SameUpToErr (readElement store x y data s) (readElement store x y data (s.setErr e)) := by
  unfold readElement
  cases store.get? x.toNat y.toNat with
  | some v => exact answer_sameUpToErr (data v) s e
  | none => nofun

theorem readOptional_sameUpToErr (store : Option (Raster α)) (x y : Coord) (data : α → Word) (s : State) (e : Option Cause) :
    SameUpToErr (readOptional store x y data s) (readOptional store x y data (s.setErr e)) := by
  refine .ite (raise_sameUpToErr .range s e) ?_
  cases store with
  | none => exact raise_sameUpToErr .invalid s e
  | some r => exact readElement_sameUpToErr r x y data s e

theorem exec_sameUpToErr (i : Instr) (s : State) (e : Option Cause) : SameUpToErr (exec i s) (exec i (s.setErr e)) := by
  cases i with
  | convert | invalidate | fill => exact complete_sameUpToErr _ e
  | compare =>
    cases hcf : s.cf with
    | none => exact (raise_sameUpToErr .seq s e).of_eq (execCompare_noFrame hcf) (execCompare_noFrame hcf)
    | some cur =>
      cases hpf : s.pf with
      | none => exact (complete_sameUpToErr _ e).of_eq (execCompare_absent hcf hpf) (execCompare_absent hcf hpf)
      | some prev => exact (complete_sameUpToErr _ e).of_eq (execCompare_present hcf hpf) (execCompare_present hcf hpf)
  | commit =>
    cases hcf : s.cf with
    | none => exact (raise_sameUpToErr .seq s e).of_eq (execCommit_noFrame hcf) (execCommit_noFrame hcf)
    | some cur => exact (complete_sameUpToErr _ e).of_eq (execCommit_frame hcf) (execCommit_frame hcf)

theorem execPbl_sameUpToErr {h w n : BitVec 17} (data : Vector (Vector (Vector Byte n.toNat) w.toNat) h.toNat) (s : State)
    (e : Option Cause) : SameUpToErr (execPbl h w n data s) (execPbl h w n data (s.setErr e)) := by
  by_cases hs : h.toNat = s.h ∧ w.toNat = s.w ∧ n.toNat = 3
  · exact (complete_sameUpToErr _ e).of_eq (execPbl_shape data hs) (execPbl_shape (s := s.setErr e) data hs)
  · exact (raise_sameUpToErr .shape s e).of_eq (execPbl_noShape data hs) (execPbl_noShape data hs)

theorem execPort_sameUpToErr {p : Port} (hstr : p ≠ .str) (s : State) (e : Option Cause) :
    SameUpToErr (execPort p s) (execPort p (s.setErr e)) := by
  cases p with
  | pbw x y r g b => exact .ite (raise_sameUpToErr .range s e) (complete_sameUpToErr _ e)
  | pbr x y => exact .ite (raise_sameUpToErr .range s e) (readElement_sameUpToErr s.pb x y pixelData s e)
  | pbl h w n data => exact execPbl_sameUpToErr data s e
  | cfr x y => exact readOptional_sameUpToErr s.cf x y packedData s e
  | pfr x y => exact readOptional_sameUpToErr s.pf x y packedData s e
  | dmr x y => exact readOptional_sameUpToErr s.dm x y bitData s e
  | str => exact absurd rfl hstr

/-- The block stays usable: an operation other than `STR` does the same whatever ERR holds (60_exceptions.md R133). -/
theorem execOperation_sameUpToErr (hstr : op ≠ .port .str) (s : State) (e : Option Cause) :
    SameUpToErr (execOperation op s) (execOperation op (s.setErr e)) := by
  cases op with
  | port p => exact execPort_sameUpToErr (fun hp => hstr (congrArg Operation.port hp)) s e
  | command w =>
    cases hd : decode w with
    | error err => exact (raise_sameUpToErr .illegal s e).of_eq (execOperation_illegal w hd) (execOperation_illegal w hd)
    | ok i => exact (exec_sameUpToErr i s e).of_eq (execOperation_command w hd) (execOperation_command w hd)

/-- Settles O31: a refusal is `raise`, and ERR is read by `STR` only. -/
theorem refusalChangesNothingElse : Obligations.RefusalChangesNothingElse := by
  refine ⟨fun op s t k ht hr => ?refusal, fun op s t e ht => ?usable⟩
  case refusal =>
    obtain ⟨u, hu, hrefused⟩ := raise_refusedWith k s
    cases hu.symm.trans ((execOperation_of_raises ((response_err_iff ht).mp hr)).symm.trans ht)
    exact hrefused
  case usable =>
    by_cases hstr : op = .port .str
    · subst hstr
      cases ht
      exact ⟨_, rfl, rfl, fun hne => absurd rfl hne⟩
    · obtain ⟨e', hu⟩ := execOperation_sameUpToErr hstr s e t ht
      exact ⟨_, hu, rfl, fun _ => rfl⟩

/-! ### ERR is sticky -/

/-- ERR after an operation: as before, or the first error, recorded with the refusal (60_exceptions.md R133). -/
theorem Effect.err_eq (he : Effect op s t) :
    t.err = s.err ∨ ∃ k, t.err = some (s.err.getD k) ∧ t.response = some (.err k) := by
  cases he with
  | refused k hk => exact .inr ⟨k, recordError_err s k, rfl⟩
  | answered | converted | comparedAbsent | comparedPresent | committed | invalidated | stored => exact .inl rfl

/-- ERR after a step: 0 by the reset input; else as before, or the first error, recorded with the refusal. -/
theorem step_err (hs : step s = .next t) : (s.nextIsReset ∧ t.err = none) ∨
    (¬s.nextIsReset ∧ (t.err = s.err ∨ ∃ k, t.err = some (s.err.getD k) ∧ t.response = some (.err k))) := by
  cases step_effect hs with
  | waited hp => exact .inr ⟨by simp [State.nextIsReset, State.nextIs, hp], .inl rfl⟩
  | operated op rest hp he => exact .inr ⟨by simp [State.nextIsReset, State.nextIs, hp], he.err_eq⟩
  | reset hr | resetFreePb hr => exact .inl ⟨hr, rfl⟩

/-- Settles O32, by the three ways ERR comes out of a step. -/
theorem errorIsSticky : Obligations.ErrorIsSticky := by
  intro s t hs
  rcases step_err hs with ⟨hr, hnone⟩ | ⟨hr, hsame | ⟨k, hfirst, hresponse⟩⟩
  · exact ⟨fun _ => hnone, fun hn => absurd hr hn, fun k _ hk => by simp [hnone] at hk⟩
  · exact ⟨fun h => absurd h hr, fun _ k hk => hsame.trans hk, fun k hz hk => by simp [hsame, hz] at hk⟩
  · refine ⟨fun h => absurd h hr, fun _ k hk => by simp [hfirst, hk], fun k' hz hk => ?_⟩
    obtain rfl : k = k' := by simpa [hfirst, hz] using hk
    exact hresponse

end Sys2Proof.Machine
end

section
/-! SUPPORT. Proofs of the family 70_reset_and_hazards.md: what the reset state answers, what the reset input leaves between and during
operations, and that the block never stops of itself. -/

namespace Sys2Proof.Machine

variable {α : Type} {s t : State} {op : Operation} {x y : Coord}

/-! ### The reset state -/

theorem applyRst_afterReset (s : State) : s.applyRst.AfterReset := ⟨rfl, rfl, rfl, rfl, rfl, rfl⟩

theorem reset_afterReset : State.reset.AfterReset := ⟨rfl, rfl, rfl, rfl, rfl, rfl⟩

/-- Every field of STATUS is 0 after reset (70_reset_and_hazards.md R143). -/
theorem State.AfterReset.fields (ht : t.AfterReset) :
    t.cfv = false ∧ t.pfv = false ∧ t.dmv = false ∧ t.full = false ∧ t.any = false ∧ t.errCode = 0 := by
  obtain ⟨hcf, hpf, hdm, hfull, hany, herr⟩ := ht
  simp [State.cfv, State.pfv, State.dmv, State.errCode, *]

theorem State.AfterReset.status (ht : t.AfterReset) : t.status = 0 := by
  obtain ⟨hcfv, hpfv, hdmv, hfull, hany, herr⟩ := ht.fields
  rw [State.status, hcfv, hpfv, hdmv, hfull, hany, herr]
  rfl

theorem State.AfterReset.execStr (ht : t.AfterReset) : execPort .str t = .next (t.respond (.data 0)) :=
  ht.status ▸ answer_eq t.status

/-! ### The reset input -/

theorem step_rst {rest : List Request} (hp : s.pending = .rst :: rest) : step s = .next (s.setPending rest).applyRst :=
  step_accept hp

theorem step_rstDuring {rest : List Request} (hp : s.pending = .rstDuring op :: rest) :
    step s = .next ((s.setPending rest).abandon op) :=
  step_accept hp

/-- Settles O34: the stores without value are refused as in any state where their flag is 0. -/
theorem resetState : Obligations.ResetState := by
  refine ⟨⟨reset_afterReset, fun x y => Raster.get?_ofFn _⟩,
    fun s rest hp => ⟨_, step_rst hp, applyRst_afterReset _, rfl, rfl, rfl⟩, fun t ht => ?answers⟩
  case answers =>
    obtain ⟨hcfv, hpfv, hdmv, hfull, hany, herr⟩ := ht.fields
    exact ⟨hcfv, hpfv, hdmv, hfull, hany, herr, ht.execStr,
      fun x y hx hy => ⟨readOptional_refused_invalid _ hx hy hcfv, readOptional_refused_invalid _ hx hy hpfv,
        readOptional_refused_invalid _ hx hy hdmv⟩,
      (compareComputesTheMask t).1 hcfv, (commitCopiesTheFrame t).1 hcfv⟩

/-- The operations whose abandonment leaves PB free are `FILL` and `PBL` (70_reset_and_hazards.md R142). -/
theorem fillsBuffer_iff : fillsBuffer op = true ↔
    (∃ r g b, op = .command (encode (.fill r g b))) ∨ ∃ h w n data, op = .port (.pbl h w n data) := by
  simp only [← isCommand_iff, isCommand]
  cases op with
  | port p => cases p <;> simp [fillsBuffer]
  | command w =>
    cases hd : decode w with
    | error e => simp [fillsBuffer, hd]
    | ok i => cases i <;> simp [fillsBuffer, hd]

theorem abandon_of_not_fillsBuffer (hop : ¬fillsBuffer op = true) : s.abandon op = s.applyRst := if_neg hop

/-- Whatever operation it abandons, the reset input leaves the reset state, no response, and the panel and the host's sequence as they
were. -/
theorem abandon_frame (s : State) (op : Operation) : (s.abandon op).AfterReset ∧ (s.abandon op).response = none ∧
    (s.abandon op).w = s.w ∧ (s.abandon op).h = s.h ∧ (s.abandon op).pending = s.pending := by
  rcases abandon_eq s op with h | h <;> rw [h] <;> exact ⟨applyRst_afterReset _, rfl, rfl, rfl, rfl⟩

theorem State.Shaped.setPending (h : s.Shaped) (rest : List Request) : (s.setPending rest).Shaped := h.frame h.pb

/-- A free PB has the panel's shape (log 9). -/
theorem State.Shaped.freePb (h : s.Shaped) : s.freePb.Shaped := h.frame (Raster.wf_ofFn _)

theorem State.Shaped.abandon (h : s.Shaped) (op : Operation) : (s.abandon op).Shaped := by
  rcases abandon_eq s op with heq | heq <;> rw [heq]
  · exact h.applyRst
  · exact h.freePb.applyRst

/-- Settles O35: `abandon` is the reset input over PB as it was, but for a `FILL` or a `PBL`. -/
theorem rstClearsAllButTheBuffer : Obligations.RstClearsAllButTheBuffer := by
  intro s rest
  refine ⟨fun hp => ?between, fun op hp => ?during⟩
  case between =>
    have hreset := applyRst_afterReset (s.setPending rest)
    exact ⟨_, step_rst hp, hreset, hreset.status, rfl, rfl, rfl, rfl, rfl⟩
  case during =>
    obtain ⟨hreset, hresponse, hw, hh, hpending⟩ := abandon_frame (s.setPending rest) op
    refine ⟨_, step_rstDuring hp, hreset, hreset.status, hresponse, fun hs => (hs.setPending rest).abandon op,
      fun hfill hpbl => ?_, hw, hh, hpending⟩
    have hkeeps : ¬fillsBuffer op = true := by
      rw [fillsBuffer_iff]
      rintro (⟨r, g, b, hop⟩ | ⟨h, w, n, data, hop⟩)
      · exact hfill r g b hop
      · exact hpbl h w n data hop
    rw [abandon_of_not_fillsBuffer hkeeps]
    rfl

/-! ### The block never stops -/

/-- A read of a store of the panel's shape, or without value, never faults (log 7). -/
theorem readOptional_total {store : Option (Raster α)} (data : α → Word) (hwf : ∀ r, store = some r → r.wf s.w s.h = true) :
    ∃ t, readOptional store x y data s = .next t := by
  cases ho : s.outside x y with
  | true => exact ⟨_, readOptional_outside data ho⟩
  | false =>
    cases store with
    | none => exact ⟨_, readOptional_noValue data ho⟩
    | some r =>
      obtain ⟨hx, hy⟩ := (inside_iff x y).mp ho
      obtain ⟨v, hv⟩ := Raster.exists_get? (hwf r rfl) hx hy
      exact ⟨_, readOptional_value data ho hv⟩

theorem execPort_total (h : s.Shaped) (p : Port) : ∃ t, execPort p s = .next t := by
  cases p with
  | pbw x y r g b =>
    cases ho : s.outside x y with
    | true => exact ⟨_, execPbw_outside r g b ho⟩
    | false => exact ⟨_, execPbw_inside r g b ho⟩
  | pbr x y =>
    cases ho : s.outside x y with
    | true => exact ⟨_, execPbr_outside ho⟩
    | false =>
      obtain ⟨hx, hy⟩ := (inside_iff x y).mp ho
      obtain ⟨v, hv⟩ := Raster.exists_get? h.pb hx hy
      exact ⟨_, (execPbr_inside ho).trans (readElement_of_get? pixelData hv)⟩
  | pbl rows cols n data =>
    by_cases hs : rows.toNat = s.h ∧ cols.toNat = s.w ∧ n.toNat = 3
    · exact ⟨_, execPbl_shape data hs⟩
    · exact ⟨_, execPbl_noShape data hs⟩
  | cfr x y => exact readOptional_total packedData h.cf
  | pfr x y => exact readOptional_total packedData h.pf
  | dmr x y => exact readOptional_total bitData h.dm
  | str => exact ⟨_, rfl⟩

/-- Every operation of the host, an illegal word too, ends in a next state. -/
theorem execOperation_total (h : s.Shaped) (op : Operation) : ∃ t, execOperation op s = .next t := by
  cases op with
  | port p => exact execPort_total h p
  | command w =>
    cases hd : decode w with
    | error e => exact ⟨_, execOperation_illegal w hd⟩
    | ok i =>
      rw [execOperation_command w hd]
      exact exec_next i s

theorem step_total (h : s.Shaped) : ∃ t, step s = .next t := by
  cases hp : s.pending with
  | nil => exact ⟨s, step_idle hp⟩
  | cons q rest =>
    rw [step_accept hp]
    cases q with
    | operation op => exact execOperation_total (h.setPending rest) op
    | rst => exact ⟨_, rfl⟩
    | rstDuring op => exact ⟨_, rfl⟩

/-- No step changes the size of the panel (00_scope.md R5). -/
theorem step_panel (hs : step s = .next t) : t.w = s.w ∧ t.h = s.h := by
  cases step_effect hs with
  | waited | reset | resetFreePb => exact ⟨rfl, rfl⟩
  | operated op rest hp he => cases he <;> simp

/-- Settles O41, by induction on the length of the run: a step from a state that meets the invariants gives one that meets them. -/
theorem blockNeverStops : Obligations.BlockNeverStops := by
  intro n
  induction n with
  | zero => exact fun s _ => ⟨s, run_zero s, rfl, rfl⟩
  | succ n ih =>
    intro s h
    obtain ⟨u, hu⟩ := step_total h.shaped
    obtain ⟨hw, hh⟩ := step_panel hu
    obtain ⟨t, ht, htw, hth⟩ := ih u (stepKeepsTheInvariants s u h hu)
    exact ⟨t, (run_of_next hu n).trans ht, htw.trans hw, hth.trans hh⟩

end Sys2Proof.Machine
end
